-- ==== Sys2Proof/Word.lean ====
section
/-! DEFINITION. The byte and the buffer (spec/00_scope.md rules R9 and R10): a byte is 8 bits, bit 0 the
least significant; a buffer is a finite sequence of bytes, offset 0 first. -/

namespace Sys2Proof

/-- A byte, an unsigned value of 8 bits (R9). -/
abbrev Byte := BitVec 8

/-- A buffer, a finite byte sequence with offset 0 first (R10). -/
abbrev Bytes := List Byte

end Sys2Proof
end

