-- ==== Sys2Proof/Config.lean ====
section
/-! DEFINITION. The values the spec fixes (table of rule R7), the byte order of `LENGTH` (R8, R43), and the
defaults of the host's configuration (R137). UNVERIFIED: the literals are the source document's, not audited
against a device (93_implementation_defined.md U9). -/

namespace Sys2Proof

/-- The two byte orders a 2-byte field can have (R43). -/
inductive LenOrder where
  | littleEndian
  | bigEndian
  deriving DecidableEq, Repr

/-- First byte of every frame (R7). -/
@[simp] abbrev Config.stx : Byte := 0x02
/-- Last byte of every frame (R7). -/
@[simp] abbrev Config.etx : Byte := 0x03
/-- Wire value of packet type `Request` (R7). -/
@[simp] abbrev Config.tRequest : Byte := 0x30
/-- Wire value of packet type `Notify` (R7). -/
@[simp] abbrev Config.tNotify : Byte := 0x34
/-- Wire value of packet type `Data` (R7). -/
@[simp] abbrev Config.tData : Byte := 0x35
/-- Width of the `SEQ` field in bytes (R7). -/
@[simp] abbrev Config.seqBytes : Nat := 1
/-- Modulus of the sequence counter (R7). -/
@[simp] abbrev Config.seqMod : Nat := 256
/-- Counter value after initialisation and after `SEQ_RESET` (R7). -/
@[simp] abbrev Config.seqInit : Byte := 0
/-- Width of the `LENGTH` field in bytes (R7). -/
@[simp] abbrev Config.lenBytes : Nat := 2
/-- Greatest payload length in bytes (R7). -/
@[simp] abbrev Config.payloadMax : Nat := 65535
/-- Size of the frame with an empty payload (R7). -/
@[simp] abbrev Config.frameMin : Nat := 7
/-- Bytes of a frame that are not payload: `STX`, `TYPE`, `SEQ`, `LENGTH`, `CHECKSUM`, `ETX` (R7). -/
@[simp] abbrev Config.frameOverhead : Nat := 1 + 1 + Config.seqBytes + Config.lenBytes + 1 + 1
/-- Offset of `TYPE`, after `STX` (table of R41). -/
@[simp] abbrev Config.typeOffset : Nat := 1
/-- Offset of `SEQ`, after `TYPE` (table of R41). -/
@[simp] abbrev Config.seqOffset : Nat := Config.typeOffset + 1
/-- Offset of `LENGTH`, after `SEQ` (table of R41). -/
@[simp] abbrev Config.lengthOffset : Nat := Config.seqOffset + Config.seqBytes
/-- Offset of `PAYLOAD`, after `LENGTH` (table of R41). -/
@[simp] abbrev Config.payloadOffset : Nat := Config.lengthOffset + Config.lenBytes
/-- Size of the greatest frame (R7). -/
@[simp] abbrev Config.frameMax : Nat := Config.frameMin + Config.payloadMax

/-- `LEN_ORDER`, the byte order of the `LENGTH` field: the spec's decision D1 (R8, R43), UNVERIFIED against the
real device (notes/assumptions/1.md). The codec reads the order from here, so another device needs only another
value. -/
@[simp] abbrev Config.lenOrder : LenOrder := .littleEndian

/-- `max_retries`, the host's attempt budget, its default (R137). -/
@[simp] abbrev Config.maxRetriesDefault : Nat := 10
/-- `retry_delay`, the host's pause between attempts, its default of 0.1 s, in milliseconds (R137). -/
@[simp] abbrev Config.retryDelayDefault : Nat := 100
/-- The transport's per-read timeout in milliseconds. DESIGN CHOICE: the spec gives it no default
(notes/assumptions/17.md). -/
@[simp] abbrev Config.readTimeoutDefault : Nat := 0

end Sys2Proof
end

