-- ==== Sys2Proof/Syntax.lean ====
section
/-! DEFINITION. Packets, failures, results, and the ONE instruction type: one constructor for each row of
spec/opcode_table.json. "Instruction" is the spec's word for one of the block's five operations (R2); the three
frame rows are the other encoding the spec gives, the wire frame (R60, R70). -/

namespace Sys2Proof

/-- The closed enumeration of packet types (R12). -/
inductive PacketType where
  | request
  | notify
  | data
  deriving DecidableEq, Repr

/-- A logical packet (R12). The sequence is 8 bits by type; the payload's length is checked by
`Packet.wellFormed`. -/
structure Packet where
  type     : PacketType
  sequence : Byte
  payload  : Bytes
  deriving DecidableEq, Repr

/-- The closed enumeration of decode failures (R12, R170). A failure carries nothing but its kind (R114). -/
inductive DecodeFailure where
  | tooShort
  | badFraming
  | incomplete
  | checksumMismatch
  | unknownType
  deriving DecidableEq, Repr

/-- What `DECODE` returns: a packet or one failure kind (R100). -/
inductive DecodeResult where
  | ok   (p : Packet)
  | fail (k : DecodeFailure)
  deriving DecidableEq, Repr

/-- The result side of the command interface (R71, R79): what one transaction returns. -/
inductive Result where
  /-- no result: `SEQ_RESET` (R121) -/
  | noResult
  /-- `ENCODE`'s frame (R91) -/
  | frame (F : Bytes)
  /-- `DECODE`'s outcome (R100) -/
  | decoded (r : DecodeResult)
  /-- the counter value `SEQ_NEXT` and `SEQ_CURRENT` return (R120, R122) -/
  | value (v : Byte)
  deriving DecidableEq, Repr

/-- The instructions, in the order of spec/opcode_table.json. -/
inductive Instr where
  /-- `ENCODE` (R91): `type` is the raw byte of the port `enc_type` (R79), so that the one ill-formed operand a
  port can carry (R92) can be written down -/
  | encode (type : Byte) (sequence : Byte) (payload : Bytes)
  /-- `DECODE` of a buffer of any length (R100) -/
  | decode (buffer : Bytes)
  /-- `SEQ_NEXT` (R120) -/
  | seqNext
  /-- `SEQ_RESET` (R121) -/
  | seqReset
  /-- `SEQ_CURRENT` (R122) -/
  | seqCurrent
  /-- a received frame of type `Request` (R70, R145) -/
  | frameRequest (sequence : Byte) (payload : Bytes)
  /-- a received frame of type `Notify` (R70, R145) -/
  | frameNotify (sequence : Byte) (payload : Bytes)
  /-- a received frame of type `Data` (R70, R145) -/
  | frameData (sequence : Byte) (payload : Bytes)
  deriving DecidableEq, Repr

/-- The request side of the command interface (R79): the operation code and the operand ports. The ports
`enc_len` and `dec_len` are the lengths of the two byte streams (`Request.encLen`, `Request.decLen`). -/
structure Request where
  op         : BitVec 3
  encType    : Byte
  encSeq     : Byte
  encPayload : Bytes
  decBuf     : Bytes
  deriving DecidableEq, Repr

/-- The port `enc_len`: `enc_payload` is a stream of `enc_len` bytes (R79). -/
def Request.encLen (r : Request) : Nat := r.encPayload.length

/-- The port `dec_len`: `dec_buf` is a stream of `dec_len` bytes (R79). -/
def Request.decLen (r : Request) : Nat := r.decBuf.length

/-- The two things that are encoded (30_encoding.md): a transaction on the command interface, and the bytes of a
wire frame. -/
inductive Encoded where
  | command (r : Request)
  | frame (B : Bytes)
  deriving DecidableEq, Repr

/-- Why something encoded is no instruction. -/
inductive Reject where
  /-- operation codes 5, 6 and 7 (R74) -/
  | reservedOperation (op : BitVec 3)
  /-- the buffer is no frame, for the named reason (R100) -/
  | notAFrame (k : DecodeFailure)
  deriving DecidableEq, Repr

end Sys2Proof
end

