-- ==== Sys2Proof/WellFormed.lean ====
section
/-! DEFINITION. Which packets and instructions are well formed (R12, R91, R92). -/

namespace Sys2Proof

/-- The three wire values a `TYPE` byte may have (R62). -/
def typeCodes : Bytes := [Config.tRequest, Config.tNotify, Config.tData]

/-- A payload fits the 2-byte `LENGTH` field (R12, R64). -/
def payloadFits (payload : Bytes) : Bool := decide (payload.length ≤ Config.payloadMax)

/-- A packet whose fields are in the ranges of R12. -/
def Packet.wellFormed (p : Packet) : Bool := payloadFits p.payload

/-- An instruction the spec gives: `ENCODE` of a well-formed packet (R91, R92), `DECODE` of anything (R100), the
three counter operations (R124), and a frame whose payload its `LENGTH` field can count (R64). -/
def Instr.wellFormed : Instr → Bool
  | .encode type _ payload => typeCodes.contains type && payloadFits payload
  | .decode _ => true
  | .seqNext => true
  | .seqReset => true
  | .seqCurrent => true
  | .frameRequest _ payload => payloadFits payload
  | .frameNotify _ payload => payloadFits payload
  | .frameData _ payload => payloadFits payload

end Sys2Proof
end

