-- ==== Sys2Proof/Machine/Flags.lean ====
section
/-! DEFINITION. The block keeps no flags (R24). This file holds what stands in their place: the checksum (R90),
the counter's arithmetic (R128) and the numbers by which an outcome is reported (R72). -/

namespace Sys2Proof.Machine

/-- `xor8`, the XOR-reduction of a buffer (R90). PRESUMED by the spec's own entry G1: the reduction starts from 0
(notes/assumptions/2.md). -/
def xor8 (B : Bytes) : Byte := B.foldl (fun acc b => acc ^^^ b) 0

/-- `(c + 1) mod 256`: the sum is taken exactly and reduced, so the wrap from 255 to 0 sets nothing (R120,
R128). -/
def nextIdentifier (c : Byte) : Byte := BitVec.ofNat 8 ((c.toNat + 1) % Config.seqMod)

/-- The number of a failure on the `status` result (tables of R72 and R170, decision D4). -/
def failureCode : DecodeFailure → BitVec 3
  | .tooShort => 1
  | .badFraming => 2
  | .incomplete => 3
  | .checksumMismatch => 4
  | .unknownType => 5

/-- The 3-bit `status` of a `DECODE` (table of R72). -/
def statusCode : DecodeResult → BitVec 3
  | .ok _ => 0
  | .fail k => failureCode k

end Sys2Proof.Machine
end

