-- ==== Sys2Proof/Machine/Operands.lean ====
section
/-! DEFINITION. How each operand is laid down in a frame and read from one (R41, R43, R62, R68). -/

namespace Sys2Proof.Machine

/-- The wire value of a packet type (R62). -/
def wire : PacketType → Byte
  | .request => Config.tRequest
  | .notify => Config.tNotify
  | .data => Config.tData

/-- The packet type of a `TYPE` byte; none for the 253 unknown values (R62, R73). The whole byte is compared. -/
def unwire (b : Byte) : Option PacketType :=
  if b = Config.tRequest then some .request
  else if b = Config.tNotify then some .notify
  else if b = Config.tData then some .data
  else none

/-- The two bytes of a `LENGTH` field in a byte order (R43): `le16` for the order of this hardware. -/
def lengthBytes (o : LenOrder) (L : Nat) : Bytes :=
  let low := BitVec.ofNat 8 (L % 256)
  let high := BitVec.ofNat 8 (L / 256)
  match o with
  | .littleEndian => [low, high]
  | .bigEndian => [high, low]

/-- The value of a `LENGTH` field from its bytes at offsets 3 and 4, in a byte order (R43): `unle16` for the order
of this hardware. -/
def lengthValue (o : LenOrder) (b3 b4 : Byte) : Nat :=
  match o with
  | .littleEndian => b3.toNat + 256 * b4.toNat
  | .bigEndian => b4.toNat + 256 * b3.toNat

/-- The byte at an offset. Every use stands behind the length check that makes the offset exist (R46). -/
def byteAt (B : Bytes) (i : Nat) : Byte := B.getD i 0

/-- `MemRead(B+i, n)`, the `n` bytes from offset `i` (R11). -/
def memRead (B : Bytes) (i n : Nat) : Bytes := (B.drop i).take n

/-- The `LENGTH` field of a buffer (R41, R68). -/
def lengthField (B : Bytes) : Nat :=
  lengthValue Config.lenOrder (byteAt B Config.lengthOffset) (byteAt B (Config.lengthOffset + 1))

end Sys2Proof.Machine
end

