-- ==== Sys2Proof/Machine/Frame.lean ====
section
/-! DEFINITION. The wire frame: what `ENCODE` builds (R91) and how `DECODE` judges a buffer (R100). Both are pure
functions of their operand (R93, R109). -/

namespace Sys2Proof.Machine

/-- The bytes the checksum covers, `TYPE` through the last payload byte (R66, R91), with the `LENGTH` field in a
given byte order. -/
def frameBody (o : LenOrder) (p : Packet) : Bytes :=
  [wire p.type, p.sequence] ++ lengthBytes o p.payload.length ++ p.payload

/-- The frame of a packet with the `LENGTH` field in a given byte order (R60, R91). A peer of the other order
(R199) writes this one. -/
def frameIn (o : LenOrder) (p : Packet) : Bytes :=
  [Config.stx] ++ frameBody o p ++ [xor8 (frameBody o p), Config.etx]

/-- `ENCODE`'s frame (R91), in the byte order of this hardware (R43). -/
def encodeFrame (p : Packet) : Bytes := frameIn Config.lenOrder p

/-- `DECODE`'s judgement of a buffer: the checks of R101 to R106 in the order of R108, the first that fails
deciding; then the packet of R107. -/
def decodeFrame (B : Bytes) : DecodeResult :=
  let n := B.length
  let L := lengthField B
  if n < Config.frameMin then .fail .tooShort
  else if byteAt B 0 ≠ Config.stx ∨ byteAt B (n - 1) ≠ Config.etx then .fail .badFraming
  else if n < Config.frameOverhead + L then .fail .incomplete
  else if Config.frameOverhead + L < n then .fail .badFraming
  else if xor8 (memRead B Config.typeOffset (Config.payloadOffset - Config.typeOffset + L)) ≠
      byteAt B (Config.payloadOffset + L) then .fail .checksumMismatch
  else
    match unwire (byteAt B Config.typeOffset) with
    | none => .fail .unknownType
    | some t => .ok { type := t, sequence := byteAt B Config.seqOffset, payload := memRead B Config.payloadOffset L }

end Sys2Proof.Machine
end

