-- ==== Sys2Proof/Decode.lean ====
section
/-! DEFINITION. From what is encoded to an instruction and back (30_encoding.md). Two encodings: a transaction on
the command interface, its operation chosen by the 3-bit code of R71; and a wire frame, its type chosen by its
second byte (R70). Decoding is total and rejects by name. -/

namespace Sys2Proof

/-- The instruction a transaction on the command interface asks for (table of R71); codes 5, 6 and 7 are reserved
(R74). -/
def decodeRequest (r : Request) : Except Reject Instr :=
  match r.op.toNat with
  | 0 => .ok (.encode r.encType r.encSeq r.encPayload)
  | 1 => .ok (.decode r.decBuf)
  | 2 => .ok .seqNext
  | 3 => .ok .seqReset
  | 4 => .ok .seqCurrent
  | _ => .error (.reservedOperation r.op)

/-- The instruction of a received packet: the row of the table its type names (R70). -/
def frameInstr (p : Packet) : Instr :=
  match p.type with
  | .request => .frameRequest p.sequence p.payload
  | .notify => .frameNotify p.sequence p.payload
  | .data => .frameData p.sequence p.payload

/-- The frame row a received buffer is, or why it is none (R70, R100). -/
def decodeBuffer (B : Bytes) : Except Reject Instr :=
  match Machine.decodeFrame B with
  | .ok p => .ok (frameInstr p)
  | .fail k => .error (.notAFrame k)

/-- The decoder, total. -/
def decode : Encoded → Except Reject Instr
  | .command r => decodeRequest r
  | .frame B => decodeBuffer B

/-- A transaction of an operation code with its operand ports at zero and its streams empty. -/
def plainRequest (op : BitVec 3) : Request :=
  { op := op, encType := 0, encSeq := 0, encPayload := [], decBuf := [] }

/-- The encoder, from the tables of R71 and R70. -/
def encode : Instr → Encoded
  | .encode type sequence payload =>
    .command { op := 0, encType := type, encSeq := sequence, encPayload := payload, decBuf := [] }
  | .decode buffer => .command { plainRequest 1 with decBuf := buffer }
  | .seqNext => .command (plainRequest 2)
  | .seqReset => .command (plainRequest 3)
  | .seqCurrent => .command (plainRequest 4)
  | .frameRequest sequence payload => .frame (Machine.encodeFrame ⟨.request, sequence, payload⟩)
  | .frameNotify sequence payload => .frame (Machine.encodeFrame ⟨.notify, sequence, payload⟩)
  | .frameData sequence payload => .frame (Machine.encodeFrame ⟨.data, sequence, payload⟩)

/-- Eight bits of a table word, from bit `lo` up. -/
def wordByte (w lo : Nat) : Byte := BitVec.ofNat 8 (w >>> lo)

/-- A frame with the given first two bytes, `SEQ` and `LENGTH` bytes, an all-zero payload of that length, and the
trailer the layout fixes (R66, R67). -/
def zeroPayloadFrame (b0 b1 b2 b3 b4 : Byte) : Bytes :=
  let body := [b1, b2, b3, b4] ++ List.replicate (Machine.lengthValue Config.lenOrder b3 b4) 0
  [b0] ++ body ++ [Machine.xor8 body, Config.etx]

/-- What a word of spec/opcode_table.json stands for, laid out as the hardware takes it. A CMD row is its 3-bit
operation code; the operands are not bits of it but are presented with the transaction (R79 and the table's note),
and the port `enc_type` carries the first wire value an admitted transaction may have (notes/assumptions/5.md). A
FRAME row is a 16-bit number with the byte at offset 0 as its high half (R70), the later bytes counting on from it;
`CHECKSUM` and `ETX` are no operands (R68) and hold what the layout fixes (notes/assumptions/6.md). -/
def tableEncoded (nbits w : Nat) : Option Encoded :=
  if nbits ≤ 8 then
    if w < 8 then some (.command { plainRequest (BitVec.ofNat 3 w) with encType := Config.tRequest }) else none
  else if w < 2 ^ 40 then
    some (.frame (zeroPayloadFrame (wordByte w 8) (wordByte w 0) (wordByte w 16) (wordByte w 24) (wordByte w 32)))
  else none

/-- The instruction the decoder reads from a table word; none where it rejects. -/
def decodeTableWord (nbits w : Nat) : Option Instr :=
  match tableEncoded nbits w with
  | none => none
  | some e =>
    match decode e with
    | .ok i => some i
    | .error _ => none

end Sys2Proof
end

