-- ==== Sys2Proof/Machine/State.lean ====
section
/-! DEFINITION. The state. The block's own state is one byte (`Block`, R20). Beside it, and never inside it (R28),
stand the command interface, the Session Engine and its transport, which the spec describes as the block's host
(R5, 45_host_session_engine.md). All of it is plain data. -/

namespace Sys2Proof.Machine

/-- Who can act: a requester of the block (R179), the reset line (R190), the Session Engine (R141). -/
inductive Agent where
  | requester (r : Nat)
  | resetLine
  | engine
  deriving DecidableEq, Repr

/-- One place of the total order of R48: a transaction served for an agent, with its result, or the RESET event
(R190). -/
inductive Event where
  | served (a : Agent) (i : Instr) (r : Result)
  | reset
  deriving DecidableEq, Repr

/-- The complete architectural state of the block: the sequence counter (R20, R21). -/
structure Block where
  c : Byte
  deriving DecidableEq, Repr

/-- The state of the retry loop of one `send_command` call (R142). `waited` is the worst-case wait so far, in
milliseconds (R160). -/
structure Waiting where
  expected : Byte
  attempts : Nat
  notify   : Nat
  waited   : Nat
  deriving DecidableEq, Repr

/-- Where a `send_command` call stands (R141, R152). -/
inductive Phase where
  /-- no call in progress -/
  | idle
  /-- step 1 passed: the identifier is to be allocated (step 2) -/
  | called (payload : Bytes) (wait : Bool)
  /-- step 2 done: the request is to be encoded (step 3) -/
  | allocated (seq : Byte) (payload : Bytes) (wait : Bool)
  /-- encoded: the frame is to be written to the transport (step 3) -/
  | encoded (seq : Byte) (frame : Bytes) (wait : Bool)
  /-- step 5: the retry loop -/
  | receiving (w : Waiting)
  deriving DecidableEq, Repr

/-- What the caller asks of the Session Engine (R138 to R141). -/
inductive HostCall where
  | connect
  | disconnect
  | isConnected
  | sendCommand (payload : Bytes) (wait : Bool)
  deriving DecidableEq, Repr

/-- The failures of `send_command` (R163). -/
inductive SessionFailure where
  | notConnected
  | transportFailure
  | protocolViolation
  /-- carries the notifications absorbed and the attempt budget (R150) -/
  | responseTimeout (notify budget : Nat)
  deriving DecidableEq, Repr

/-- What the caller gets back (R138 to R141, R158, R163). -/
inductive CallResult where
  /-- success with no value -/
  | done
  /-- `is_connected()` (R140) -/
  | connected (b : Bool)
  /-- the matching `Data` packet (R148, R158) -/
  | packet (p : Packet)
  /-- `connect` failed (R138) -/
  | connectFailure
  | failed (f : SessionFailure)
  /-- the `ENCODE` of the call was refused. DESIGN CHOICE: the spec names no failure for it
  (notes/assumptions/26.md) -/
  | refused
  deriving DecidableEq, Repr

/-- The Session Engine (R135), its configuration (R137) and its calls. `calls` are those of a caller that serialises
them, each made when the one before has returned (R161, R162). `overlapping` are the `send_command` calls made while
another call was running or waiting, which are refused (R162, 93_implementation_defined.md U7; where that other call is
no `send_command`, the model's choice, notes/assumptions/23.md). -/
structure Engine where
  phase       : Phase
  calls       : List HostCall
  overlapping : List HostCall
  answers     : List CallResult
  maxRetries  : Nat
  retryDelay  : Nat
  readTimeout : Nat
  deriving DecidableEq, Repr

/-- What one read of the transport for "one frame" yields (R136, R144, R163, R166). -/
inductive ReadItem where
  /-- a candidate frame, as the host's open procedure `RX_DELIMIT` cut it (D14) -/
  | buffer (B : Bytes)
  /-- timeout or short read -/
  | silence
  /-- an unrecoverable read error -/
  | readError
  deriving DecidableEq, Repr

/-- What one `open` or one `write` of the transport answers (R136). -/
inductive IoAnswer where
  | ok
  | error
  deriving DecidableEq, Repr

/-- The transport as the Session Engine sees it (R136). `opens`, `writes` and `rx` are what its coming opens, writes
and reads answer, oldest first. DESIGN CHOICE: once such a list is empty every open and every write succeeds and every
read times out (notes/assumptions/14.md). -/
structure Line where
  isOpen : Bool
  opens  : List IoAnswer
  writes : List IoAnswer
  rx     : List ReadItem
  tx     : List Bytes
  deriving DecidableEq, Repr

/-- No fault exists: nothing in the block traps, hangs or is undefined, and a decode failure is a result, not a
fault of the model (R174, 00_scope.md section 7 item 5). No step and no meaning answers with a fault. -/
inductive Fault where
  deriving DecidableEq, Repr

/-- Why a transaction has no meaning (R172). -/
inductive Refusal where
  /-- raised by `exec`'s arm of an instruction the model does not give a meaning yet; safe -/
  | notModelled (mnemonic : String)
  /-- raised by `ENCODE` of a packet that is not well formed (R92); safe: nothing is concluded about it -/
  | illFormedPacket
  /-- raised by the step on a transaction with operation code 5, 6 or 7 (R74); safe -/
  | reservedOperation (op : BitVec 3)
  /-- raised by the step on a `send_command` made while another call of the engine runs or waits (R162, R201,
  93_implementation_defined.md U7; where that other call is no `send_command`, the model's choice,
  notes/assumptions/23.md); safe -/
  | concurrentCall
  deriving DecidableEq, Repr

end Sys2Proof.Machine

namespace Sys2Proof.Machine

/-- The whole state: the block, and around it the command interface (`result`, `pending`, `resetAsserted`), the
arbiter's choices to come (`grants`, R48 d), what has been served (`history`, R48 b), what has been refused
(`refusals`, the refusal mark of R206), the Session Engine and its transport. -/
structure State where
  block         : Block
  result        : Result
  pending       : List (Nat × Request)
  resetAsserted : Bool
  grants        : List Agent
  history       : List Event
  refusals      : List (Agent × Refusal)
  engine        : Engine
  line          : Line
  deriving DecidableEq, Repr

/-- The Session Engine before any call (R142), with the default configuration (R137). -/
def Engine.reset : Engine :=
  { phase := .idle, calls := [], overlapping := [], answers := [], maxRetries := Config.maxRetriesDefault,
    retryDelay := Config.retryDelayDefault, readTimeout := Config.readTimeoutDefault }

/-- The transport before `connect` (R194). -/
def Line.reset : Line :=
  { isOpen := false, opens := [], writes := [], rx := [], tx := [] }

/-- Right after reset: `c = 0` (R29). Nothing has been presented, granted or served, and the host has done nothing.
DESIGN CHOICE: the fields outside the block (notes/assumptions/11.md, notes/assumptions/17.md). -/
def State.reset : State :=
  { block := { c := Config.seqInit }, result := .noResult, pending := [], resetAsserted := false, grants := [],
    history := [], refusals := [], engine := Engine.reset, line := Line.reset }

end Sys2Proof.Machine
end

