-- ==== Sys2Proof/Machine/Ops.lean ====
section
/-! DEFINITION. The named operations on the state: the counter register, the result side of the command interface,
delivering a failure (what the spec has in place of taking an exception, R174), the RESET event (R190), and what
the outside world can do between steps. -/

namespace Sys2Proof.Machine

/-- Read the counter register (R21). -/
def State.counter (s : State) : Byte := s.block.c

/-- Write the counter register (R21). -/
def State.setCounter (s : State) (v : Byte) : State := { s with block := { c := v } }

/-- Put a transaction's result on the result ports (R79). They are no architectural state: no transaction reads
them (R22). -/
def State.setResult (s : State) (r : Result) : State := { s with result := r }

/-- Deliver a decode failure ("trap entry", R174): the failure kind is the transaction's result; nothing is saved,
no state of the block changes, control goes nowhere. There is nothing to return from (R176). -/
def State.deliverFailure (s : State) (k : DecodeFailure) : State := s.setResult (.decoded (.fail k))

/-- Deliver a decoded packet (R107). -/
def State.deliverPacket (s : State) (p : Packet) : State := s.setResult (.decoded (.ok p))

/-- The RESET event (R190): the counter becomes 0, and RESET takes its place in the total order. Nothing of the host
is touched (R191). Loss of power ends in the same state of the block (R30). -/
def State.applyReset (s : State) : State :=
  { s with block := { c := Config.seqInit }, resetAsserted := false, history := s.history ++ [.reset] }

/-- Record a served transaction in the total order, with its result (R48 b). -/
def State.record (s : State) (a : Agent) (i : Instr) : State :=
  { s with history := s.history ++ [.served a i s.result] }

/-- Outside: requester `r` presents a transaction (R48, R79). -/
def State.present (s : State) (r : Nat) (q : Request) : State := { s with pending := s.pending ++ [(r, q)] }

/-- Outside: the RESET input is asserted (R190). -/
def State.assertReset (s : State) : State := { s with resetAsserted := true }

/-- Outside: the arbiter's next choice (R48 d). -/
def State.grant (s : State) (a : Agent) : State := { s with grants := s.grants ++ [a] }

/-- A call made of the engine now. A `send_command` made while another `send_command` runs or waits is concurrent with it
and is refused (R162, 93_implementation_defined.md U7). DESIGN CHOICE: one made while a `connect`, `disconnect` or
`is_connected` waits is refused too, and any other call made while a call runs or waits is made to wait for it
(notes/assumptions/23.md). -/
def Engine.takeCall (e : Engine) (k : HostCall) : Engine :=
  match k with
  | .sendCommand _ _ =>
    if e.phase = .idle ∧ e.calls = [] then { e with calls := [k] } else { e with overlapping := e.overlapping ++ [k] }
  | .connect => { e with calls := e.calls ++ [k] }
  | .disconnect => { e with calls := e.calls ++ [k] }
  | .isConnected => { e with calls := e.calls ++ [k] }

/-- Outside: the caller makes a call of the Session Engine now (R138 to R141). -/
def State.call (s : State) (k : HostCall) : State := { s with engine := s.engine.takeCall k }

/-- Outside: a caller that serialises its calls will make this one when all before it have returned (R161, R162). -/
def State.callNext (s : State) (k : HostCall) : State :=
  { s with engine := { s.engine with calls := s.engine.calls ++ [k] } }

/-- Outside: what a coming `open` of the transport will answer (R136). -/
def State.answerOpen (s : State) (a : IoAnswer) : State :=
  { s with line := { s.line with opens := s.line.opens ++ [a] } }

/-- Outside: what a coming `write` of the transport will answer (R136). -/
def State.answerWrite (s : State) (a : IoAnswer) : State :=
  { s with line := { s.line with writes := s.line.writes ++ [a] } }

/-- Outside: the transport will yield this to a coming read (R136). -/
def State.yieldRead (s : State) (x : ReadItem) : State := { s with line := { s.line with rx := s.line.rx ++ [x] } }

end Sys2Proof.Machine
end

