-- ==== Sys2Proof/Machine/Allocator.lean ====
section
/-! DEFINITION. The meanings of the Sequence Allocator's three operations (42_sequence_allocator.md). Each is one
step, so its read and its write of the counter are atomic (R48, R123); none can fail (R124). -/

namespace Sys2Proof.Machine

/-- `SEQ_NEXT` (R120): the value before the increment is returned. -/
def execSeqNext (s : State) : Host.Outcome State Fault Refusal :=
  .next ((s.setCounter (nextIdentifier s.counter)).setResult (.value s.counter))

/-- `SEQ_RESET` (R121): no result. -/
def execSeqReset (s : State) : Host.Outcome State Fault Refusal :=
  .next ((s.setCounter Config.seqInit).setResult .noResult)

/-- `SEQ_CURRENT` (R122): the counter is read and not changed. -/
def execSeqCurrent (s : State) : Host.Outcome State Fault Refusal :=
  .next (s.setResult (.value s.counter))

end Sys2Proof.Machine
end

