-- ==== Sys2Proof/Machine/Session.lean ====
section
/-! DEFINITION. The Session Engine's own work (45_host_session_engine.md): its calls and its retry loop. It is host
software outside the block (R5); its block transactions are served like any requester's. -/

namespace Sys2Proof.Machine

/-- Where the current call stands. -/
def State.setPhase (s : State) (p : Phase) : State := { s with engine := { s.engine with phase := p } }

/-- The current call ends: its result goes to the caller and the call's state is gone (R142, R164). -/
def Engine.finish (e : Engine) (r : CallResult) : Engine := { e with phase := .idle, answers := e.answers ++ [r] }

/-- The current call ends (R142, R164). -/
def State.finishCall (s : State) (r : CallResult) : State := { s with engine := s.engine.finish r }

/-- The calls not yet begun. -/
def State.setCalls (s : State) (cs : List HostCall) : State := { s with engine := { s.engine with calls := cs } }

/-- Acquire or release the transport (R138, R139). -/
def State.setOpen (s : State) (b : Bool) : State := { s with line := { s.line with isOpen := b } }

/-- What the coming `open` of the transport answers (R136). -/
def Line.openAnswer (l : Line) : IoAnswer := l.opens.headD .ok

/-- What the coming `write` of the transport answers (R136). -/
def Line.writeAnswer (l : Line) : IoAnswer := l.writes.headD .ok

/-- The `open` has answered. -/
def State.opened (s : State) : State := { s with line := { s.line with opens := s.line.opens.tail } }

/-- The `write` has answered. -/
def State.written (s : State) : State := { s with line := { s.line with writes := s.line.writes.tail } }

/-- What the coming reads yield. -/
def State.setRx (s : State) (rx : List ReadItem) : State := { s with line := { s.line with rx := rx } }

/-- A frame is written and flushed to the transport (R42, R141 step 3). -/
def State.transmitted (s : State) (F : Bytes) : State := { s with line := { s.line with tx := s.line.tx ++ [F] } }

/-- A write or a read failed: the call ends with `TransportFailure` (R141, R163), and the transport is released, as
`connect` guarantees on every exit path (R138; notes/assumptions/16.md says for which failures). -/
def State.failTransport (s : State) : State := (s.setOpen false).finishCall (.failed .transportFailure)

/-- One attempt is consumed without a final outcome: pause `retry_delay`, then the next attempt, or `ResponseTimeout`
when the budget is exhausted (R143, R150). Timeouts, mismatches and notifications all draw on the one budget
(R151). -/
def State.spendAttempt (s : State) (w : Waiting) : State :=
  if w.attempts ≤ 1 then s.finishCall (.failed (.responseTimeout w.notify s.engine.maxRetries))
  else s.setPhase (.receiving { w with
    attempts := w.attempts - 1, waited := w.waited + (s.engine.readTimeout + s.engine.retryDelay) })

/-- Branch a: no usable frame this attempt, whether the read was silent or the buffer was no frame (R144). -/
def State.noUsableFrame (s : State) : State :=
  match s.engine.phase with
  | .receiving w => s.spendAttempt w
  | .idle => s
  | .called _ _ => s
  | .allocated _ _ _ => s
  | .encoded _ _ _ => s

/-- Branches b to e on a decoded packet: mismatch (R146), notification (R147), success (R148), protocol violation
(R149). The sequence is compared before the type is looked at (R143, R146). -/
def State.judgePacket (s : State) (w : Waiting) (p : Packet) : State :=
  if p.sequence ≠ w.expected then s.spendAttempt w
  else
    match p.type with
    | .notify => s.spendAttempt { w with notify := w.notify + 1 }
    | .data => s.finishCall (.packet p)
    | .request => s.finishCall (.failed .protocolViolation)

/-- The Session Engine is handed a received packet. It reads frames only inside the retry loop (R143, R144); outside
it the packet changes nothing of the engine (notes/assumptions/18.md). -/
def State.hostReceives (s : State) (p : Packet) : State :=
  match s.engine.phase with
  | .receiving w => s.judgePacket w p
  | .idle => s
  | .called _ _ => s
  | .allocated _ _ _ => s
  | .encoded _ _ _ => s

/-- Step 3, the write: a write error is `TransportFailure` (R141). Step 4: without a wait the call succeeds with no
value. Step 5: the retry loop begins with the whole budget (R142); with no budget it fails at once (R143). -/
def State.transmit (s : State) (seq : Byte) (F : Bytes) (wait : Bool) : State :=
  match s.line.writeAnswer with
  | .error => s.written.failTransport
  | .ok =>
    if wait = false then (s.written.transmitted F).finishCall .done
    else if s.engine.maxRetries = 0 then (s.written.transmitted F).finishCall (.failed (.responseTimeout 0 0))
    else (s.written.transmitted F).setPhase
      (.receiving { expected := seq, attempts := s.engine.maxRetries, notify := 0, waited := 0 })

/-- `connect` (R138): one `open`, not retried. DESIGN CHOICE: a transport already held is released by a `connect` whose
`open` fails, and is held anew by one whose `open` succeeds (notes/assumptions/27.md). -/
def State.connect (s : State) : State :=
  match s.line.openAnswer with
  | .ok => (s.opened.setOpen true).finishCall .done
  | .error => (s.opened.setOpen false).finishCall .connectFailure

/-- The engine begins a call: `connect` (R138), `disconnect` (R139), `is_connected` (R140), or `send_command` with
its step 1, which comes before the allocation (R141). -/
def State.beginCall (s : State) (k : HostCall) : State :=
  match k with
  | .connect => s.connect
  | .disconnect => (s.setOpen false).finishCall .done
  | .isConnected => s.finishCall (.connected s.line.isOpen)
  | .sendCommand payload wait =>
    if s.line.isOpen then s.setPhase (.called payload wait) else s.finishCall (.failed .notConnected)

end Sys2Proof.Machine
end

