-- ==== Sys2Proof/Machine/Codec.lean ====
section
/-! DEFINITION. The meanings of the Frame Codec's two operations (40_frame_encode.md, 41_frame_decode.md). Neither
reads or writes the counter (R49). -/

namespace Sys2Proof.Machine

/-- `ENCODE` (R91): the frame of a well-formed packet. A packet that is not well formed is refused (R92): never
truncated, never reduced, never given another type. -/
def execEncode (type sequence : Byte) (payload : Bytes) (s : State) : Host.Outcome State Fault Refusal :=
  match unwire type with
  | none => .refused .illFormedPacket
  | some t =>
    if payload.length ≤ Config.payloadMax then
      .next (s.setResult (.frame (encodeFrame { type := t, sequence := sequence, payload := payload })))
    else .refused .illFormedPacket

/-- `DECODE` (R100): the packet, or a failure delivered as the result (R174). -/
def execDecode (buffer : Bytes) (s : State) : Host.Outcome State Fault Refusal :=
  match decodeFrame buffer with
  | .ok p => .next (s.deliverPacket p)
  | .fail k => .next (s.deliverFailure k)

end Sys2Proof.Machine
end

