-- ==== Sys2Proof/Machine/Frames.lean ====
section
/-! DEFINITION. The meanings of the three frame rows (R70): a received frame is judged by the block, which delivers
its packet (R107), and the Session Engine takes the branch its sequence and type name (R143, R145). -/

namespace Sys2Proof.Machine

/-- A received frame: the packet is delivered and handed to the Session Engine. -/
def State.receiveFrame (s : State) (p : Packet) : State := (s.deliverPacket p).hostReceives p

/-- `FRAME.REQUEST` (R145): with the expected sequence, a protocol violation (R149). -/
def execFrameRequest (sequence : Byte) (payload : Bytes) (s : State) : Host.Outcome State Fault Refusal :=
  .next (s.receiveFrame { type := .request, sequence := sequence, payload := payload })

/-- `FRAME.NOTIFY` (R145): with the expected sequence, counted and absorbed (R147). -/
def execFrameNotify (sequence : Byte) (payload : Bytes) (s : State) : Host.Outcome State Fault Refusal :=
  .next (s.receiveFrame { type := .notify, sequence := sequence, payload := payload })

/-- `FRAME.DATA` (R145): with the expected sequence, the final answer (R148). -/
def execFrameData (sequence : Byte) (payload : Bytes) (s : State) : Host.Outcome State Fault Refusal :=
  .next (s.receiveFrame { type := .data, sequence := sequence, payload := payload })

end Sys2Proof.Machine
end

