-- ==== Sys2Proof/Machine/Dispatch.lean ====
section
/-! DEFINITION. The one dispatch from an instruction to its meaning. -/

namespace Sys2Proof.Machine

def exec (i : Instr) (s : State) : Host.Outcome State Fault Refusal :=
  match i with
  | .encode type sequence payload => Sys2Proof.Machine.execEncode type sequence payload s
  | .decode buffer => Sys2Proof.Machine.execDecode buffer s
  | .seqNext => Sys2Proof.Machine.execSeqNext s
  | .seqReset => Sys2Proof.Machine.execSeqReset s
  | .seqCurrent => Sys2Proof.Machine.execSeqCurrent s
  | .frameRequest sequence payload => Sys2Proof.Machine.execFrameRequest sequence payload s
  | .frameNotify sequence payload => Sys2Proof.Machine.execFrameNotify sequence payload s
  | .frameData sequence payload => Sys2Proof.Machine.execFrameData sequence payload s

end Sys2Proof.Machine
end

