-- ==== Sys2Proof/Machine/Fetch.lean ====
section
/-! DEFINITION. What the next step is about: which agent acts (R48), which instruction it presents, and what the
agent does with the result. -/

namespace Sys2Proof.Machine

/-- What the next step is about. -/
inductive Fetched where
  /-- no agent has anything to do -/
  | idle
  /-- an agent's own work, no transaction of the block -/
  | internal (s : State)
  /-- a transaction of the block for an agent, in the state in which it runs -/
  | instruction (a : Agent) (i : Instr) (s : State)
  /-- a transaction that is refused (R172) -/
  | reject (r : Refusal)
  deriving DecidableEq, Repr

/-- A requester's oldest transaction not yet served, and the others, in their order (R48 c). -/
def takePending (r : Nat) : List (Nat × Request) → Option (Request × List (Nat × Request))
  | [] => none
  | (r', q) :: rest =>
    if r' = r then some (q, rest)
    else
      match takePending r rest with
      | none => none
      | some (q', rest') => some (q', (r', q) :: rest')

/-- The Session Engine has something to do. -/
def State.engineBusy (s : State) : Bool :=
  s.engine.phase ≠ .idle || s.engine.calls ≠ [] || s.engine.overlapping ≠ []

/-- An agent has something to do. -/
def State.ready (s : State) : Agent → Bool
  | .requester r => s.pending.any (fun x => x.1 == r)
  | .resetLine => s.resetAsserted
  | .engine => s.engineBusy

/-- Who acts when no grant decides: the reset line, then the oldest transaction's requester, then the engine.
DESIGN CHOICE (notes/assumptions/8.md); `grants` reaches every other order. -/
def State.defaultAgent (s : State) : Option Agent :=
  if s.resetAsserted then some .resetLine
  else
    match s.pending with
    | (r, _) :: _ => some (.requester r)
    | [] => if s.engineBusy then some .engine else none

/-- Who acts next: the next grant if that agent has something to do, else the default (R48 d: no order is
fixed). -/
def State.arbitrate (s : State) : Option Agent :=
  match s.grants with
  | g :: _ => if s.ready g then some g else s.defaultAgent
  | [] => s.defaultAgent

/-- Requester `r` presents its oldest transaction. -/
def State.fetchRequester (s : State) (r : Nat) : Fetched :=
  match takePending r s.pending with
  | none => .idle
  | some (q, rest) =>
    match decodeRequest q with
    | .ok i => .instruction (.requester r) i { s with pending := rest }
    | .error _ => .reject (.reservedOperation q.op)

/-- The Session Engine's next read of the transport in its retry loop (R143, R144, R163). A buffer is handed to the
block's `DECODE`: if it is a frame, it is the row of the table it names; if not, the transaction is the failing
`DECODE` itself. -/
def State.fetchFrame (s : State) : Fetched :=
  match s.line.rx with
  | [] => .internal s.noUsableFrame
  | .silence :: rest => .internal (s.setRx rest).noUsableFrame
  | .readError :: rest => .internal (s.setRx rest).failTransport
  | .buffer B :: rest =>
    match decodeBuffer B with
    | .ok i => .instruction .engine i (s.setRx rest)
    | .error _ => .instruction .engine (.decode B) (s.setRx rest)

/-- The Session Engine's next move (R141): the steps of `send_command` in their order, at most one transaction of
the block in each. -/
def State.fetchMove (s : State) : Fetched :=
  match s.engine.phase with
  | .idle =>
    match s.engine.calls with
    | [] => .idle
    | k :: ks => .internal ((s.setCalls ks).beginCall k)
  | .called _ _ => .instruction .engine .seqNext s
  | .allocated seq payload _ => .instruction .engine (.encode Config.tRequest seq payload) s
  | .encoded seq F wait => .internal (s.transmit seq F wait)
  | .receiving _ => s.fetchFrame

/-- The Session Engine's turn: a concurrent `send_command` is refused (R162, R201, 93_implementation_defined.md U7);
else its next move. -/
def State.fetchEngine (s : State) : Fetched :=
  match s.engine.overlapping with
  | [] => s.fetchMove
  | _ :: _ => .reject .concurrentCall

/-- A grant is used up by the step it was looked at for. -/
def State.popGrant (s : State) : State := { s with grants := s.grants.tail }

/-- What agent `a` does when it is its turn. -/
def State.fetchFor (s : State) : Agent → Fetched
  | .resetLine => .internal s.applyReset
  | .requester r => s.fetchRequester r
  | .engine => s.fetchEngine

/-- What the next step is about. -/
def State.fetch (s : State) : Fetched :=
  match s.arbitrate with
  | none => .idle
  | some a => s.popGrant.fetchFor a

/-- The Session Engine takes the result of the transaction it presented: the allocated identifier, the encoded
frame, or a decode failure, which costs one attempt (R141, R144). -/
def State.continueCall (s : State) : State :=
  match s.engine.phase, s.result with
  | .called payload wait, .value v => s.setPhase (.allocated v payload wait)
  | .allocated seq _ wait, .frame F => s.setPhase (.encoded seq F wait)
  | .receiving _, .decoded (.fail _) => s.noUsableFrame
  | _, _ => s

/-- The transaction is complete: it and its result take their place in the total order (R48 b), and the result is
delivered to the agent that presented it. -/
def State.complete (s : State) (a : Agent) (i : Instr) : State :=
  match a with
  | .engine => (s.record a i).continueCall
  | .requester _ => s.record a i
  | .resetLine => s.record a i

/-- Keep the refusal mark (R206): who was refused what. -/
def State.markRefused (s : State) (a : Agent) (e : Refusal) : State := { s with refusals := s.refusals ++ [(a, e)] }

/-- The Session Engine after its turn was refused. A concurrent `send_command` is gone, and the running call goes on.
DESIGN CHOICE: a call whose `ENCODE` is refused ends, its identifier spent and the transport still held, and its caller
is told so (notes/assumptions/26.md). -/
def Engine.dropRefused (e : Engine) : Engine :=
  match e.overlapping with
  | _ :: ks => { e with overlapping := ks }
  | [] => e.finish .refused

/-- After agent `a` was refused with `e` the block is in the same state as before and serves the next transaction
normally (R176): the state with what was refused gone, its grant used up and the refusal marked, and nothing else
done. -/
def State.afterRefusalOf (s : State) (a : Agent) (e : Refusal) : State :=
  match a with
  | .requester r =>
    match takePending r s.pending with
    | some (_, rest) => { s.popGrant.markRefused a e with pending := rest }
    | none => s
  | .engine => { s.popGrant.markRefused a e with engine := s.engine.dropRefused }
  | .resetLine => s

/-- Place something encoded so that it is what the next step runs: a transaction, as requester 0's next one, granted
next; a frame, as what the engine's retry loop reads next, granted next (notes/assumptions/7.md). -/
def State.place (s : State) (e : Encoded) : State :=
  match e with
  | .command q => { s with pending := (0, q) :: s.pending, grants := .requester 0 :: s.grants }
  | .frame B =>
    { s with
      grants := .engine :: s.grants
      line := { s.line with isOpen := true, rx := .buffer B :: s.line.rx }
      engine := { s.engine with
        overlapping := []
        phase := .receiving { expected := byteAt B 2, attempts := s.engine.maxRetries, notify := 0, waited := 0 } } }

end Sys2Proof.Machine
end

