-- ==== Sys2Proof/Machine/Step.lean ====
section
/-! DEFINITION. One step: at most one transaction of the block, served atomically (R48), or one move of an agent of
its own. With nothing to do the machine stays as it is: the block is passive and has no end of its own (R206). -/

namespace Sys2Proof.Machine

/-- One step. -/
def step (s : State) : Host.Outcome State Fault Refusal :=
  match s.fetch with
  | .idle => .next s
  | .internal t => .next t
  | .reject r => .refused r
  | .instruction a i t =>
    match exec i t with
    | .next u => .next (u.complete a i)
    | .fault f => .fault f
    | .refused r => .refused r

/-- The state after a refused step, from which the block goes on (R176); after any other step the state itself. What
becomes of a `send_command` whose `ENCODE` is refused is the model's choice (notes/assumptions/26.md). -/
def State.afterRefusal (s : State) : State :=
  match s.arbitrate, step s with
  | some a, .refused e => s.afterRefusalOf a e
  | _, _ => s

/-- The state with the instruction of a table word placed where the next step takes it from. -/
def State.withFetchWord (s : State) (nbits w : Nat) : State :=
  match tableEncoded nbits w with
  | none => s
  | some e => s.place e

end Sys2Proof.Machine
end

