-- ==== Sys2Proof/Safety.lean ====
section
/-! DEFINITION. The terms in which claims are stated: transactions served one after another, the total order of
R48 as the history records it, what a `send_command` call promises while it runs, and a flipped bit. -/

namespace Sys2Proof.Machine

/-- Transactions served one after another, in the order given (R48). -/
def serveAll : List Instr → State → Host.Outcome State Fault Refusal
  | [], s => .next s
  | i :: is, s =>
    match exec i s with
    | .next t => serveAll is t
    | .fault f => .fault f
    | .refused r => .refused r

/-- The counter value a result carries, as a list of none or one. -/
def resultValue : Result → List Byte
  | .value v => [v]
  | .noResult => []
  | .frame _ => []
  | .decoded _ => []

/-- The identifiers the `SEQ_NEXT` transactions among them return, in order (R125). -/
def allocations : List Instr → State → List Byte
  | [], _ => []
  | i :: is, s =>
    match exec i s with
    | .next t => (if i = .seqNext then resultValue t.result else []) ++ allocations is t
    | .fault _ => []
    | .refused _ => []

/-- The counter after one place of the total order: `SEQ_NEXT` adds one modulo 256, `SEQ_RESET` and RESET give 0,
nothing else touches it (R21). -/
def counterAfter (c : Byte) : Event → Byte
  | .reset => 0#8
  | .served _ i _ => if i = .seqNext then c + 1 else if i = .seqReset then 0#8 else c

/-- What the rules say a transaction returns when the counter is `c` (R91, R100, R120 to R122). A refused `ENCODE`
returns nothing and is in no history. -/
def resultAt (c : Byte) : Instr → Result
  | .encode type sequence payload =>
    match unwire type with
    | some t => .frame (encodeFrame ⟨t, sequence, payload⟩)
    | none => .noResult
  | .decode buffer => .decoded (decodeFrame buffer)
  | .seqNext => .value c
  | .seqReset => .noResult
  | .seqCurrent => .value c
  | .frameRequest sequence payload => .decoded (.ok ⟨.request, sequence, payload⟩)
  | .frameNotify sequence payload => .decoded (.ok ⟨.notify, sequence, payload⟩)
  | .frameData sequence payload => .decoded (.ok ⟨.data, sequence, payload⟩)

/-- From counter value `c` on, every transaction in the order returned what the rules say at its place (R48 b). -/
def explained (c : Byte) : List Event → Prop
  | [] => True
  | .reset :: es => explained (counterAfter c .reset) es
  | .served a i r :: es => r = resultAt c i ∧ explained (counterAfter c (.served a i r)) es

/-- The history is a total order that explains every result and the counter itself: the value returned is the value
the operation before it left, or 0 if there is none since reset (R48 b). -/
def State.Linear (s : State) : Prop :=
  explained 0#8 s.history ∧ s.block.c = s.history.foldl counterAfter 0#8

/-- What a `send_command` call promises at each of its stages: the transport is held (R141 step 1); the frame to be
written is a `Request` with the allocated identifier (R141 step 3); attempts remain and never exceed the budget; the
notifications counted and the worst-case wait are within what has been spent of it (R142, R151, R160). -/
def State.SessionOk (s : State) : Prop :=
  match s.engine.phase with
  | .idle => True
  | .called _ _ => s.line.isOpen = true
  | .allocated _ _ _ => s.line.isOpen = true
  | .encoded seq F _ =>
    s.line.isOpen = true ∧ ∃ payload, payload.length ≤ 65535 ∧ F = encodeFrame ⟨.request, seq, payload⟩
  | .receiving w =>
    s.line.isOpen = true ∧ 1 ≤ w.attempts ∧ w.attempts ≤ s.engine.maxRetries ∧
      w.notify + w.attempts ≤ s.engine.maxRetries ∧
      w.waited = (s.engine.maxRetries - w.attempts) * (s.engine.readTimeout + s.engine.retryDelay)

/-- Everything the Session Engine has written to the transport is a frame of type `Request` (R95, R145). -/
def State.SentRequests (s : State) : Prop :=
  ∀ F ∈ s.line.tx, ∃ seq payload, decodeFrame F = .ok ⟨.request, seq, payload⟩

/-- Requester `r`'s transactions that are not yet served, in the order it presented them. -/
def State.pendingOf (s : State) (r : Nat) : List Request :=
  (s.pending.filter (fun x => x.1 == r)).map (fun x => x.2)

/-- The run is over: every transaction that was presented has been served, and nothing else is required (R206). The
Session Engine presents a transaction in the very step that serves it, so none of its waits. -/
def State.over (s : State) : Prop := s.pending = []

/-- A transaction was refused in the run, so nothing is claimed of it (R206). -/
def State.marked (s : State) : Prop := s.refusals ≠ []

/-- No agent has anything to do. -/
def State.quiet (s : State) : Prop := s.pending = [] ∧ s.resetAsserted = false ∧ s.engineBusy = false

/-- It is the Session Engine's turn, and no concurrent call is to be refused (R162). -/
def State.engineMoves (s : State) : Prop := s.arbitrate = some .engine ∧ s.engine.overlapping = []

/-- Nobody but the Session Engine has anything to do, and no concurrent call is to be refused (R162). -/
def State.engineAlone (s : State) : Prop :=
  s.pending = [] ∧ s.resetAsserted = false ∧ s.engine.overlapping = []

/-- The read yields a frame with the expected sequence and one of the given types. -/
def ReadItem.carries (x : ReadItem) (expected : Byte) (types : List PacketType) : Bool :=
  match x with
  | .silence => false
  | .readError => false
  | .buffer B =>
    match decodeFrame B with
    | .ok p => p.sequence == expected && types.contains p.type
    | .fail _ => false

/-- A read that ends a call at once: the final answer, a protocol violation, or an unrecoverable error (R148, R149,
R163). -/
def ReadItem.final (x : ReadItem) (expected : Byte) : Bool :=
  x == .readError || x.carries expected [.data, .request]

/-- A buffer with bit `k` of the byte at offset `i` flipped (R9, R112). -/
def flipBit (B : Bytes) (i k : Nat) : Bytes := B.set i (byteAt B i ^^^ BitVec.twoPow 8 k)

end Sys2Proof.Machine
end

