-- ==== Sys2Proof/Certificates/Slice0/Obligations.lean ====
section
/-! DEFINITION. The statements for the provers, taken from the numbered rules of spec/. Where a docstring says that
a clause is the spec's own decision or inference, the statement's basis is "derived". -/

open Sys2Proof Sys2Proof.Machine

/-! ### Reset -/

/-- R29: after reset the counter is 0, and 256 `SEQ_NEXT` from a fresh allocator return 0, 1, ..., 255 in order. -/
def Obligations.ResetLeavesCounterZero : Prop :=
  State.reset.block = { c := 0 } ∧
  ∀ s : State, s.block = State.reset.block →
    allocations (List.replicate 256 .seqNext) s = (List.range 256).map (BitVec.ofNat 8)

/-- 70_reset_and_hazards.md section 1, the spec's decision D10: when the RESET event takes its place in the order the
counter becomes 0, and nothing of the host, of the transport or of the waiting transactions is touched. That one grant
is used up is the model's own choice (notes/assumptions/8.md). -/
def Obligations.ResetEventClearsOnlyCounter : Prop :=
  ∀ s : State, s.arbitrate = some .resetLine →
    step s = .next { s with
      block := { c := 0 }, resetAsserted := false, grants := s.grants.tail, history := s.history ++ [.reset] }

/-! ### The Sequence Allocator -/

/-- R120: `SEQ_NEXT` returns the counter and sets it to `(c + 1) mod 256`; it writes nothing else and cannot
fail. -/
def Obligations.SeqNextReturnsThenIncrements : Prop :=
  ∀ s : State, ∃ v : Byte, v.toNat = (s.block.c.toNat + 1) % 256 ∧
    exec .seqNext s = .next { s with block := { c := v }, result := .value s.block.c }

/-- R121: `SEQ_RESET` sets the counter to 0, returns nothing, and the next `SEQ_NEXT` returns 0; two in a row equal
one. -/
def Obligations.SeqResetClearsCounter : Prop :=
  ∀ s : State, ∃ t u : State,
    t = { s with block := { c := 0 }, result := .noResult } ∧
    exec .seqReset s = .next t ∧ exec .seqReset t = .next t ∧
    exec .seqNext t = .next u ∧ u.result = .value 0 ∧ u.block = { c := 1 }

/-- R122: `SEQ_CURRENT` returns the counter and changes nothing; the value is what the next `SEQ_NEXT` returns; after
a `SEQ_NEXT` the identifier just handed out is one less, modulo 256. -/
def Obligations.SeqCurrentReadsOnly : Prop :=
  ∀ s : State,
    exec .seqCurrent s = .next { s with result := .value s.block.c } ∧
    ∃ t u v : State, exec .seqCurrent s = .next t ∧ exec .seqNext t = .next u ∧ u.result = t.result ∧
      exec .seqCurrent u = .next v ∧ v.result = .value u.block.c ∧ u.result = .value (u.block.c - 1)

/-- R124: the three operations of the allocator complete in every state. -/
def Obligations.AllocatorCannotFail : Prop :=
  ∀ (i : Instr) (s : State), i = .seqNext ∨ i = .seqReset ∨ i = .seqCurrent → ∃ t : State, exec i s = .next t

/-- R128: below 255 the increment adds one, at 255 it gives 0; and the assembly of `LENGTH` stays in 16 bits. -/
def Obligations.CounterArithmetic : Prop :=
  (∀ s t : State, exec .seqNext s = .next t →
    (s.block.c.toNat ≤ 254 → t.block.c.toNat = s.block.c.toNat + 1) ∧ (s.block.c = 255 → t.block.c = 0)) ∧
  ∀ (o : LenOrder) (b3 b4 : Byte), lengthValue o b3 b4 ≤ 65535

/-- R125: counting only `SEQ_NEXT` since the last reset, the k-th returns `(k - 1) mod 256` and leaves `k mod 256`;
what is served in between changes nothing, as long as it is no reset. -/
def Obligations.SequenceOfIdentifiers : Prop :=
  ∀ (is : List Instr) (s : State), s.block.c = 0 → (∀ i ∈ is, i.wellFormed = true ∧ i ≠ .seqReset) →
    allocations is s = (List.range (is.count .seqNext)).map (fun k => BitVec.ofNat 8 (k % 256)) ∧
    ∃ t : State, serveAll is s = .next t ∧ t.block.c = BitVec.ofNat 8 (is.count .seqNext % 256)

/-- 42_sequence_allocator.md section 2, an inference the spec marks as its own: with no reset between them, two
allocations agree exactly when they are a multiple of 256 apart, and a span of at most 256 has no duplicate; and a
`SEQ_RESET` between two allocations may make them equal however close they are. -/
def Obligations.IdentifiersUniqueWithinWindow : Prop :=
  (∀ s : State, s.block.c = 0 → allocations [.seqNext, .seqReset, .seqNext] s = [0, 0]) ∧
  ∀ (is : List Instr) (s : State), (∀ i ∈ is, i.wellFormed = true ∧ i ≠ .seqReset) →
    (∀ j k : Nat, j ≤ k → k < is.count .seqNext →
      ((allocations is s)[j]? = (allocations is s)[k]? ↔ 256 ∣ k - j)) ∧
    (is.count .seqNext ≤ 256 → (allocations is s).Nodup) ∧
    (allocations is s).length = is.count .seqNext

/-! ### The codec: ENCODE -/

/-- 40_frame_encode.md sections 1 and 2: `ENCODE` of a well-formed packet returns the frame
`STX TYPE SEQ LENGTH PAYLOAD CHECKSUM ETX` and changes nothing else. The order of the two `LENGTH` bytes is the spec's
decision D1, and that the XOR starts from 0 is the spec's own entry G1 (notes/assumptions/2.md). -/
def Obligations.EncodeReturnsFrame : Prop :=
  ∀ (s : State) (type sequence : Byte) (payload : Bytes),
    type ∈ ([0x30, 0x34, 0x35] : Bytes) → payload.length ≤ 65535 →
    ∀ body : Bytes,
      body = [type, sequence, BitVec.ofNat 8 (payload.length % 256), BitVec.ofNat 8 (payload.length / 256)] ++ payload →
      exec (.encode type sequence payload) s =
        .next { s with result := .frame ([0x02] ++ body ++ [body.foldr (fun b acc => b ^^^ acc) 0, 0x03]) }

/-- 40_frame_encode.md section 2, the spec's decision D11: `ENCODE` of an ill-formed packet is refused. -/
def Obligations.EncodeRefusesIllFormed : Prop :=
  ∀ (s : State) (type sequence : Byte) (payload : Bytes),
    type ∉ ([0x30, 0x34, 0x35] : Bytes) ∨ 65535 < payload.length →
    exec (.encode type sequence payload) s = .refused .illFormedPacket

/-- 40_frame_encode.md section 2, an inference the spec marks as its own: the shape of every frame. -/
def Obligations.EncodedFrameShape : Prop :=
  ∀ (p : Packet) (F : Bytes) (L : Nat), L = p.payload.length → L ≤ 65535 → F = encodeFrame p →
    F.length = 7 + L ∧ byteAt F 0 = 0x02 ∧ byteAt F 1 ∈ ([0x30, 0x34, 0x35] : Bytes) ∧ byteAt F 2 = p.sequence ∧
    (byteAt F 3).toNat + 256 * (byteAt F 4).toNat = L ∧ memRead F 5 L = p.payload ∧
    byteAt F (5 + L) = xor8 (memRead F 1 (4 + L)) ∧ byteAt F (6 + L) = 0x03 ∧ xor8 (memRead F 1 (5 + L)) = 0

/-- 40_frame_encode.md section 2, an inference the spec marks as its own: different well-formed packets give
different frames. -/
def Obligations.EncodeIsInjective : Prop :=
  ∀ (s s' t t' : State) (a b a' b' : Byte) (p p' : Bytes),
    exec (.encode a b p) s = .next t → exec (.encode a' b' p') s' = .next t' → t.result = t'.result →
    a = a' ∧ b = b' ∧ p = p'

/-- R63: `SEQ` is copied unchanged in both directions, whatever its value. -/
def Obligations.SequenceFieldCopied : Prop :=
  (∀ (p : Packet), byteAt (encodeFrame p) 2 = p.sequence) ∧
  (∀ (B : Bytes) (p : Packet), decodeFrame B = .ok p → p.sequence = byteAt B 2) ∧
  (∀ (v : Byte) (t : PacketType), ∃ B : Bytes, decodeFrame B = .ok ⟨t, v, []⟩) ∧
  ∀ (p p' : Packet), { p with sequence := p'.sequence } = p' → p.payload.length ≤ 65535 →
    byteAt (encodeFrame p) (5 + p.payload.length) ^^^ byteAt (encodeFrame p') (5 + p.payload.length) =
      p.sequence ^^^ p'.sequence

/-! ### The codec: DECODE -/

/-- R101: fewer than 7 bytes give `TooShort`, whatever they are; 7 or more never do. -/
def Obligations.DecodeTooShort : Prop :=
  ∀ (s : State) (B : Bytes),
    (B.length < 7 → exec (.decode B) s = .next { s with result := .decoded (.fail .tooShort) }) ∧
    (7 ≤ B.length → ∃ r : DecodeResult, r ≠ .fail .tooShort ∧ exec (.decode B) s = .next { s with result := .decoded r })

/-- R102: with 7 bytes or more, a wrong first byte or a wrong last byte of the buffer gives `BadFraming`. -/
def Obligations.DecodeBadDelimiters : Prop :=
  ∀ (s : State) (B : Bytes), 7 ≤ B.length → (byteAt B 0 ≠ 0x02 ∨ byteAt B (B.length - 1) ≠ 0x03) →
    exec (.decode B) s = .next { s with result := .decoded (.fail .badFraming) }

/-- R103: with right delimiters, a buffer shorter than `7 + LENGTH` gives `Incomplete`; and only such a buffer
does. -/
def Obligations.DecodeIncomplete : Prop :=
  ∀ (s : State) (B : Bytes),
    (7 ≤ B.length ∧ byteAt B 0 = 0x02 ∧ byteAt B (B.length - 1) = 0x03 ∧
      B.length < 7 + ((byteAt B 3).toNat + 256 * (byteAt B 4).toNat) →
      exec (.decode B) s = .next { s with result := .decoded (.fail .incomplete) }) ∧
    ∀ t : State, exec (.decode B) s = .next t → t.result = .decoded (.fail .incomplete) →
      7 ≤ B.length ∧ byteAt B 0 = 0x02 ∧ byteAt B (B.length - 1) = 0x03 ∧
        B.length < 7 + ((byteAt B 3).toNat + 256 * (byteAt B 4).toNat)

/-- 41_frame_decode.md section 2, the spec's decision D2: with right delimiters, a buffer longer than `7 + LENGTH`
gives `BadFraming`. -/
def Obligations.DecodeExcessBytes : Prop :=
  ∀ (s : State) (B : Bytes), 7 ≤ B.length → byteAt B 0 = 0x02 → byteAt B (B.length - 1) = 0x03 →
    7 + ((byteAt B 3).toNat + 256 * (byteAt B 4).toNat) < B.length →
    exec (.decode B) s = .next { s with result := .decoded (.fail .badFraming) }

/-- R105: with right delimiters and the exact length, a checksum byte that is not the XOR of offsets 1 to `4+L` gives
`ChecksumMismatch`, whatever the type byte is; the three forms of the condition agree. -/
def Obligations.DecodeChecksumMismatch : Prop :=
  ∀ (s : State) (B : Bytes) (L : Nat), L = (byteAt B 3).toNat + 256 * (byteAt B 4).toNat → B.length = 7 + L →
    byteAt B 0 = 0x02 → byteAt B (6 + L) = 0x03 →
    (xor8 (memRead B 1 (4 + L)) ≠ byteAt B (5 + L) →
      exec (.decode B) s = .next { s with result := .decoded (.fail .checksumMismatch) }) ∧
    (xor8 (memRead B 1 (4 + L)) ≠ byteAt B (5 + L) ↔ xor8 (memRead B 1 (5 + L)) ≠ 0) ∧
    (xor8 (memRead B 1 (4 + L)) ≠ byteAt B (5 + L) ↔ xor8 (memRead B 1 (B.length - 3)) ≠ byteAt B (B.length - 2))

/-- R106: a buffer right in everything but its type byte gives `UnknownType`. -/
def Obligations.DecodeUnknownType : Prop :=
  ∀ (s : State) (B : Bytes) (L : Nat), L = (byteAt B 3).toNat + 256 * (byteAt B 4).toNat → B.length = 7 + L →
    byteAt B 0 = 0x02 → byteAt B (6 + L) = 0x03 → xor8 (memRead B 1 (4 + L)) = byteAt B (5 + L) →
    byteAt B 1 ∉ ([0x30, 0x34, 0x35] : Bytes) →
    exec (.decode B) s = .next { s with result := .decoded (.fail .unknownType) }

/-- 41_frame_decode.md section 2: a buffer on which no check fails gives the packet of its type, sequence and payload; and
every packet `DECODE` returns is well formed and comes from such a buffer. That no buffer with excess bytes is accepted
is the spec's decision D2 (notes/assumptions/3.md). -/
def Obligations.DecodeSucceeds : Prop :=
  ∀ (s : State) (B : Bytes),
    (∀ (L : Nat) (t : PacketType), L = (byteAt B 3).toNat + 256 * (byteAt B 4).toNat → B.length = 7 + L →
      byteAt B 0 = 0x02 → byteAt B (6 + L) = 0x03 → xor8 (memRead B 1 (4 + L)) = byteAt B (5 + L) →
      (t, byteAt B 1) ∈ ([(.request, 0x30), (.notify, 0x34), (.data, 0x35)] : List (PacketType × Byte)) →
      exec (.decode B) s = .next { s with result := .decoded (.ok ⟨t, byteAt B 2, memRead B 5 L⟩) }) ∧
    ∀ (t : State) (p : Packet), exec (.decode B) s = .next t → t.result = .decoded (.ok p) →
      p.wellFormed = true ∧
      ∃ L : Nat, L = (byteAt B 3).toNat + 256 * (byteAt B 4).toNat ∧ B.length = 7 + L ∧
        byteAt B 0 = 0x02 ∧ byteAt B (6 + L) = 0x03 ∧ xor8 (memRead B 1 (4 + L)) = byteAt B (5 + L) ∧
        (p.type, byteAt B 1) ∈ ([(.request, 0x30), (.notify, 0x34), (.data, 0x35)] : List (PacketType × Byte)) ∧
        p.sequence = byteAt B 2 ∧ p.payload = memRead B 5 L

/-- R110: for every well-formed packet, decoding its encoding gives it back. -/
def Obligations.DecodeInvertsEncode : Prop :=
  ∀ (s s' : State) (t : PacketType) (v : Byte) (payload : Bytes), payload.length ≤ 65535 →
    ∃ F : Bytes, exec (.encode (wire t) v payload) s = .next { s with result := .frame F } ∧
      exec (.decode F) s' = .next { s' with result := .decoded (.ok ⟨t, v, payload⟩) }

/-- 41_frame_decode.md section 4, an inference the spec marks as its own (it rests on decision D2): what `DECODE`
accepts, `ENCODE` rebuilds byte for byte. -/
def Obligations.EncodeInvertsDecode : Prop :=
  ∀ (s s' t : State) (B : Bytes) (p : Packet), exec (.decode B) s = .next t → t.result = .decoded (.ok p) →
    exec (.encode (wire p.type) p.sequence p.payload) s' = .next { s' with result := .frame B }

/-- 41_frame_decode.md section 4, an inference the spec marks as its own (conflict C1): a single flipped bit of a
frame is always detected, and which failure it gives depends on the field. -/
def Obligations.SingleBitFlipDetected : Prop :=
  ∀ (p : Packet) (F : Bytes) (L i k : Nat), L = p.payload.length → L ≤ 65535 → F = encodeFrame p → i < 7 + L → k < 8 →
    decodeFrame (flipBit F i k) =
      if i = 0 ∨ i = 6 + L then .fail .badFraming
      else if i = 3 ∨ i = 4 then
        (if (byteAt F i).getLsbD k then .fail .badFraming else .fail .incomplete)
      else .fail .checksumMismatch

/-- R113: replacing a frame's first byte by another than `0x02`, or its last by another than `0x03`, gives
`BadFraming`. -/
def Obligations.FramingSensitivity : Prop :=
  ∀ (s : State) (p : Packet) (b : Byte), p.wellFormed = true →
    (b ≠ 0x02 → exec (.decode ((encodeFrame p).set 0 b)) s = .next { s with result := .decoded (.fail .badFraming) }) ∧
    (b ≠ 0x03 → exec (.decode ((encodeFrame p).set ((encodeFrame p).length - 1) b)) s =
      .next { s with result := .decoded (.fail .badFraming) })

/-- 41_frame_decode.md section 4, an inference the spec marks as its own: a buffer of more than 65542 bytes is
`BadFraming`. -/
def Obligations.LongBufferIsBadFraming : Prop :=
  ∀ (s : State) (B : Bytes), 65542 < B.length →
    exec (.decode B) s = .next { s with result := .decoded (.fail .badFraming) }

/-- 40_frame_encode.md section 2 and 70_reset_and_hazards.md section 3, inferences the spec marks as its own: a frame
whose payload bytes are put in another order, its checksum byte unchanged, still decodes, to the other payload. -/
def Obligations.PayloadReorderingUndetected : Prop :=
  ∀ (p : Packet) (payload : Bytes), p.payload.length ≤ 65535 → payload.Perm p.payload →
    decodeFrame (memRead (encodeFrame p) 0 5 ++ payload ++ memRead (encodeFrame p) (5 + p.payload.length) 2) =
      .ok { p with payload := payload }

/-- 70_reset_and_hazards.md section 3, an inference the spec marks as its own: a peer's frame with `LENGTH` in the
other byte order is rejected by the length checks, unless the payload length is a multiple of 257. -/
def Obligations.ByteOrderMismatch : Prop :=
  ∀ (p : Packet) (L L' : Nat), L = p.payload.length → L ≤ 65535 → L' = 256 * (L % 256) + L / 256 →
    decodeFrame (frameIn .bigEndian p) =
      if L' = L then .ok p else if L < L' then .fail .incomplete else .fail .badFraming

/-! ### Whole-block rules -/

/-- 10_state.md section 1: the counter is written by `SEQ_NEXT` and `SEQ_RESET` alone. -/
def Obligations.OnlyAllocatorWritesCounter : Prop :=
  ∀ (i : Instr) (s t : State), exec i s = .next t → i ≠ .seqNext → i ≠ .seqReset → t.block = s.block

/-- 20_memory.md section 4, an inference the spec marks as its own: a codec operation commutes with every operation
of the block. Whether it is served just before or just after, both return the same and the block ends the same. -/
def Obligations.CodecCommutes : Prop :=
  ∀ (i j : Instr) (s a b a' b' : State),
    (∃ type sequence payload, i = .encode type sequence payload) ∨ (∃ buffer, i = .decode buffer) →
    exec i s = .next a → exec j a = .next b → exec j s = .next b' → exec i b' = .next a' →
    a'.result = a.result ∧ b'.result = b.result ∧ a'.block = b.block

/-- 10_state.md sections 1 and 2, an inference the spec marks as its own: the block has no state but the counter. What
an operation returns and what it leaves depends on nothing else, and is the same for every requester. -/
def Obligations.NoHiddenState : Prop :=
  ∀ (i : Instr) (s s' : State), s.block = s'.block →
    (∀ t : State, exec i s = .next t → ∃ t' : State, exec i s' = .next t' ∧ t'.block = t.block ∧ t'.result = t.result) ∧
    (∀ r : Refusal, exec i s = .refused r → exec i s' = .refused r)

/-- 10_state.md section 2: the five operations of the block touch nothing outside it but the result ports, and the
codec's two leave the counter alone (the frame of these instructions). -/
def Obligations.OperationsFrame : Prop :=
  ∀ (i : Instr) (s t : State),
    (∃ type sequence payload, i = .encode type sequence payload) ∨ (∃ buffer, i = .decode buffer) ∨
      i = .seqNext ∨ i = .seqReset ∨ i = .seqCurrent →
    exec i s = .next t →
    t.pending = s.pending ∧ t.resetAsserted = s.resetAsserted ∧ t.grants = s.grants ∧ t.history = s.history ∧
      t.refusals = s.refusals ∧ t.engine = s.engine ∧ t.line = s.line ∧ (i ≠ .seqNext → i ≠ .seqReset → t.block = s.block)

/-- 45_host_session_engine.md section 3: a received frame touches the result ports and the call in progress, and
nothing else: not the counter, not the transport, not the engine's configuration or waiting calls (the frame of these
instructions). That a frame completes outside the retry loop and with a payload no frame carries is the model's choice
(notes/assumptions/18.md, notes/assumptions/21.md), and so is that the transport stays held when the frame ends the call
with a failure (notes/assumptions/16.md). -/
def Obligations.ReceivedFramesFrame : Prop :=
  ∀ (i : Instr) (p : Packet) (s : State), i = frameInstr p → ∃ t : State, exec i s = .next t ∧
    t.result = .decoded (.ok p) ∧
    t.block = s.block ∧ t.pending = s.pending ∧ t.resetAsserted = s.resetAsserted ∧ t.grants = s.grants ∧
    t.history = s.history ∧ t.refusals = s.refusals ∧ t.line = s.line ∧ t.engine.calls = s.engine.calls ∧
    t.engine.overlapping = s.engine.overlapping ∧
    t.engine.maxRetries = s.engine.maxRetries ∧ t.engine.retryDelay = s.engine.retryDelay ∧
    t.engine.readTimeout = s.engine.readTimeout

/-! ### The encodings -/

/-- 30_encoding.md: decoding the encoding of a well-formed instruction gives it back, for every instruction and every
operand. -/
def Obligations.DecodeAgreesWithEncode : Prop :=
  ∀ i : Instr, i.wellFormed = true → decode (encode i) = .ok i

/-- 41_frame_decode.md section 4, an inference the spec marks as its own, on the decoder: a buffer that decodes to an
instruction is that instruction's encoding, and no other instruction's. -/
def Obligations.FrameWordsAreUnique : Prop :=
  ∀ (B : Bytes) (i : Instr), decode (.frame B) = .ok i → i.wellFormed = true ∧ encode i = .frame B ∧
    ∀ j : Instr, j.wellFormed = true → encode j = .frame B → j = i

/-- 30_encoding.md sections 3 and 4 with 95_test_vectors.md: words written out from the encoding tables decode to the
instructions they stand for. The operation codes are the spec's decision D6. -/
def Obligations.WrittenWordsDecode : Prop :=
  decode (.frame [0x02, 0x30, 0x01, 0x03, 0x00, 0x01, 0x02, 0x03, 0x32, 0x03]) = .ok (.frameRequest 1 [1, 2, 3]) ∧
  decode (.frame [0x02, 0x34, 0x03, 0x00, 0x00, 0x37, 0x03]) = .ok (.frameNotify 3 []) ∧
  decode (.frame [0x02, 0x35, 0x03, 0x03, 0x00, 0xDD, 0xEE, 0xFF, 0xF9, 0x03]) = .ok (.frameData 3 [0xDD, 0xEE, 0xFF]) ∧
  decode (.command ⟨0b000, 0x35, 9, [1], []⟩) = .ok (.encode 0x35 9 [1]) ∧
  decode (.command ⟨0b001, 0, 0, [], [2, 3]⟩) = .ok (.decode [2, 3]) ∧
  decode (.command ⟨0b010, 0, 0, [], []⟩) = .ok .seqNext ∧
  decode (.command ⟨0b011, 0, 0, [], []⟩) = .ok .seqReset ∧
  decode (.command ⟨0b100, 0, 0, [], []⟩) = .ok .seqCurrent ∧
  decode (.command ⟨0b110, 0, 0, [], []⟩) = .error (.reservedOperation 6)

/-! ### The step and the order of service -/

/-- 20_memory.md section 4: when it is requester `r`'s turn and its oldest transaction (the spec's decision D17) asks
for `i`, the step is `exec` of `i` with that transaction taken from the queue; the result is recorded for `r`. That one
grant is used up is the model's own choice (notes/assumptions/8.md). -/
def Obligations.StepRunsPresentedTransaction : Prop :=
  ∀ (s : State) (r : Nat) (q : Request) (before after : List (Nat × Request)) (i : Instr),
    s.arbitrate = some (.requester r) → s.pending = before ++ (r, q) :: after → (∀ x ∈ before, x.1 ≠ r) →
    decode (.command q) = .ok i →
    step s = match exec i { s with grants := s.grants.tail, pending := before ++ after } with
      | .next t => .next { t with history := t.history ++ [.served (.requester r) i t.result] }
      | .fault f => .fault f
      | .refused e => .refused e

/-- 45_host_session_engine.md section 3: when it is the engine's turn in its retry loop and the next read yields a
buffer that decodes to `i`, the step is `exec` of `i` with that buffer taken from the transport. That the step runs and
records the frame's own row, where the spec has one `DECODE`, is the model's choice (notes/assumptions/18.md,
notes/assumptions/25.md), and so is the grant that is used up (notes/assumptions/8.md). -/
def Obligations.StepRunsReceivedFrame : Prop :=
  ∀ (s : State) (w : Waiting) (B : Bytes) (rest : List ReadItem) (i : Instr),
    s.engineMoves → s.engine.phase = .receiving w → s.line.rx = .buffer B :: rest →
    decode (.frame B) = .ok i →
    ∃ t : State, exec i { s with grants := s.grants.tail, line := { s.line with rx := rest } } = .next t ∧
      step s = .next { t with history := t.history ++ [.served .engine i t.result] }

/-- 30_encoding.md section 5, the spec's decision D6: a transaction with operation code 5, 6 or 7 is refused, when it is
its requester's turn and it is the oldest of that requester (decision D17). -/
def Obligations.ReservedOperationRefused : Prop :=
  ∀ (s : State) (r : Nat) (q : Request) (before after : List (Nat × Request)),
    s.arbitrate = some (.requester r) → s.pending = before ++ (r, q) :: after → (∀ x ∈ before, x.1 ≠ r) →
    5 ≤ q.op.toNat → step s = .refused (.reservedOperation q.op)

/-- 60_exceptions.md section 2, an inference the spec marks as its own: after a refused step the block is as it was
and what was refused is gone, so that it is not refused again. A requester loses its one transaction, and every other
waits as before; a concurrent `send_command` is gone, and the running call goes on; a `send_command` whose `ENCODE` is
refused ends with the transport still held, which is the model's choice (notes/assumptions/26.md). The refusal is
marked (decision D24), and the grant used up is the model's own (notes/assumptions/8.md). -/
def Obligations.RefusalLeavesBlockAlone : Prop :=
  ∀ (s t : State) (a : Agent) (e : Refusal), s.arbitrate = some a → step s = .refused e → t = s.afterRefusal →
    t.block = s.block ∧ t.result = s.result ∧ t.history = s.history ∧ t.resetAsserted = s.resetAsserted ∧
    t.line = s.line ∧ t.grants = s.grants.tail ∧ t.refusals = s.refusals ++ [(a, e)] ∧
    (∀ r : Nat, a = .requester r → t.engine = s.engine ∧ (∃ q, s.pendingOf r = q :: t.pendingOf r) ∧
      ∀ r' : Nat, r' ≠ r → t.pendingOf r' = s.pendingOf r') ∧
    (a = .engine → t.pending = s.pending ∧
      ((e = .concurrentCall ∧ ∃ k ks, s.engine.overlapping = k :: ks ∧ t.engine = { s.engine with overlapping := ks }) ∨
        (e = .illFormedPacket ∧ t.engine = { s.engine with phase := .idle, answers := s.engine.answers ++ [.refused] })))

/-- 20_memory.md section 4, the spec's decision D12: nothing fixes the order of service. Whoever has something to do
can be made the next to act, by the arbiter's next choice. The list `grants` that carries the choices is the model's
own (notes/assumptions/8.md). -/
def Obligations.AnyReadyAgentMayBeNext : Prop :=
  ∀ (s : State) (a : Agent) (gs : List Agent),
    (a = .resetLine ∧ s.resetAsserted = true) ∨ (∃ r, a = .requester r ∧ s.pendingOf r ≠ []) ∨
      (a = .engine ∧ (s.engine.phase ≠ .idle ∨ s.engine.calls ≠ [] ∨ s.engine.overlapping ≠ [])) →
    State.arbitrate { s with grants := a :: gs } = some a

/-- 20_memory.md section 4: one step serves at most one place of the total order, and the counter moves exactly as
that place says. -/
def Obligations.StepServesAtMostOne : Prop :=
  ∀ s t : State, step s = .next t →
    (t.history = s.history ∧ t.block = s.block) ∨
    ∃ e : Event, t.history = s.history ++ [e] ∧ t.block.c = counterAfter s.block.c e

/-- 20_memory.md section 4, the spec's decision D17: a requester's transactions are served in the order it presented
them, and a step that serves one takes nothing from anybody else. -/
def Obligations.ProgramOrderKept : Prop :=
  ∀ s t : State, step s = .next t →
    (∀ r : Nat, t.pendingOf r = s.pendingOf r) ∨
    ∃ (r : Nat) (q : Request) (i : Instr) (v : Result), decodeRequest q = .ok i ∧
      s.pendingOf r = q :: t.pendingOf r ∧ (∀ r' : Nat, r' ≠ r → t.pendingOf r' = s.pendingOf r') ∧
      t.history = s.history ++ [.served (.requester r) i v]

/-- 20_memory.md section 4: every step keeps the history a total order that explains every result and the counter:
what `SEQ_NEXT` or `SEQ_CURRENT` returned is what the operation just before it left, or 0 since reset. -/
def Obligations.StepKeepsLinearOrder : Prop :=
  ∀ s t : State, s.Linear → step s = .next t → t.Linear

/-- 20_memory.md section 4 and 70_reset_and_hazards.md section 5 (decisions D12 and D24): when every waiting
transaction is an admitted one, each step serves one, and after as many steps as there are transactions the run is
over. -/
def Obligations.EveryTransactionServed : Prop :=
  ∀ s : State, s.resetAsserted = false → s.engineBusy = false →
    (∀ x ∈ s.pending, ∃ i : Instr, decodeRequest x.2 = .ok i ∧ i.wellFormed = true) →
    ∃ t : State, Host.Core.run core s.pending.length s = .next t ∧ t.over ∧ t.refusals = s.refusals ∧
      t.history.length = s.history.length + s.pending.length

/-- 70_reset_and_hazards.md section 5 and 00_scope.md section 7: with nothing to do the machine stays as it is. -/
def Obligations.PassiveWhenIdle : Prop :=
  ∀ s : State, s.quiet → step s = .next s

/-! ### The Session Engine -/

/-- 45_host_session_engine.md section 2: `connect` acquires the transport or fails, with one `open`; `disconnect`
releases it whatever it was; `is_connected` says whether it is held; none touches the block. What a `connect` does to a
transport already held (notes/assumptions/27.md) and the grant used up (notes/assumptions/8.md) are the model's
choice. -/
def Obligations.ConnectionCalls : Prop :=
  ∀ (s : State) (k : HostCall) (ks : List HostCall),
    s.engineMoves → s.engine.phase = .idle → s.engine.calls = k :: ks →
    (k = .connect → s.line.openAnswer = .ok → step s = .next { s with
      grants := s.grants.tail, line := { s.line with isOpen := true, opens := s.line.opens.tail },
      engine := { s.engine with calls := ks, answers := s.engine.answers ++ [.done] } }) ∧
    (k = .connect → s.line.openAnswer = .error → step s = .next { s with
      grants := s.grants.tail, line := { s.line with isOpen := false, opens := s.line.opens.tail },
      engine := { s.engine with calls := ks, answers := s.engine.answers ++ [.connectFailure] } }) ∧
    (k = .disconnect → step s = .next { s with
      grants := s.grants.tail, line := { s.line with isOpen := false },
      engine := { s.engine with calls := ks, answers := s.engine.answers ++ [.done] } }) ∧
    (k = .isConnected → step s = .next { s with
      grants := s.grants.tail,
      engine := { s.engine with calls := ks, answers := s.engine.answers ++ [.connected s.line.isOpen] } })

/-- 45_host_session_engine.md sections 3 and 4: a `send_command` made while another call runs or waits is refused;
where the other is a `send_command` this is the spec's ruling U7, and where a `connect`, `disconnect` or
`is_connected` waits it is the model's choice (notes/assumptions/23.md). One without a held transport fails with
`NotConnected` before any allocation. Otherwise the engine allocates one identifier and encodes a `Request` with it,
each a transaction of the block; a payload over 65535 bytes is refused there (decision D11). The cut of a call into
these steps is the model's choice (notes/assumptions/13.md). -/
def Obligations.SendCommandAllocatesThenEncodes : Prop :=
  (∀ (s : State) (payload : Bytes) (wait : Bool), s.engine.phase ≠ .idle ∨ s.engine.calls ≠ [] →
    (s.call (.sendCommand payload wait)).arbitrate = some .engine →
    step (s.call (.sendCommand payload wait)) = .refused .concurrentCall) ∧
  (∀ (s : State) (payload : Bytes) (wait : Bool) (ks : List HostCall),
    s.engineMoves → s.engine.phase = .idle → s.engine.calls = .sendCommand payload wait :: ks →
    ∃ t : State, step s = .next t ∧ t.block = s.block ∧ t.engine.calls = ks ∧
      (s.line.isOpen = false → t.engine.phase = .idle ∧ t.engine.answers = s.engine.answers ++ [.failed .notConnected]) ∧
      (s.line.isOpen = true → t.engine.phase = .called payload wait ∧ t.engine.answers = s.engine.answers)) ∧
  (∀ (s : State) (payload : Bytes) (wait : Bool), s.engineMoves → s.engine.phase = .called payload wait →
    ∃ t : State, step s = .next t ∧ t.block.c = s.block.c + 1 ∧
      t.engine.phase = .allocated s.block.c payload wait ∧
      t.history = s.history ++ [.served .engine .seqNext (.value s.block.c)]) ∧
  ∀ (s : State) (seq : Byte) (payload : Bytes) (wait : Bool), s.engineMoves →
    s.engine.phase = .allocated seq payload wait →
    (payload.length ≤ 65535 → ∃ (t : State) (F : Bytes), F = encodeFrame ⟨.request, seq, payload⟩ ∧ step s = .next t ∧
      t.block = s.block ∧ t.engine.phase = .encoded seq F wait ∧
      t.history = s.history ++ [.served .engine (.encode 0x30 seq payload) (.frame F)]) ∧
    (65535 < payload.length → step s = .refused .illFormedPacket)

/-- 45_host_session_engine.md section 3: the write. A write error is `TransportFailure`; without a wait the call ends
with no value; otherwise the retry loop starts with the whole budget. That a failed write puts nothing on the line and
releases the transport, and that a `ResponseTimeout` does not, is the model's reading (notes/assumptions/16.md), and
that a budget of 0 fails at once is the spec's own inference (notes/assumptions/15.md). -/
def Obligations.SendCommandTransmits : Prop :=
  ∀ (s : State) (seq : Byte) (F : Bytes) (wait : Bool),
    s.engineMoves → s.engine.phase = .encoded seq F wait →
    ∃ t : State, step s = .next t ∧ t.block = s.block ∧
      (s.line.writeAnswer = .error → t.line = { s.line with isOpen := false, writes := s.line.writes.tail } ∧
        t.engine.phase = .idle ∧ t.engine.answers = s.engine.answers ++ [.failed .transportFailure]) ∧
      (s.line.writeAnswer = .ok →
        t.line = { s.line with writes := s.line.writes.tail, tx := s.line.tx ++ [F] }) ∧
      (s.line.writeAnswer = .ok → wait = false → t.engine.phase = .idle ∧
        t.engine.answers = s.engine.answers ++ [.done]) ∧
      (s.line.writeAnswer = .ok → wait = true → 1 ≤ s.engine.maxRetries →
        t.engine.phase = .receiving ⟨seq, s.engine.maxRetries, 0, 0⟩ ∧ t.engine.answers = s.engine.answers) ∧
      (s.line.writeAnswer = .ok → wait = true → s.engine.maxRetries = 0 → t.engine.phase = .idle ∧
        t.engine.answers = s.engine.answers ++ [.failed (.responseTimeout 0 0)])

/-- 45_host_session_engine.md section 3, branch (a): a read that yields no usable frame, a timeout or a buffer that
`DECODE` rejects for whatever reason, costs one attempt and the pause; the loop goes on, or the call fails with
`ResponseTimeout` when the budget is spent. The wait counted is the spec's worst case (notes/assumptions/15.md), and an
exhausted input that times out is the model's choice (notes/assumptions/14.md), and so is that the transport stays held
after `ResponseTimeout` (notes/assumptions/16.md). -/
def Obligations.NoUsableFrameCostsOneAttempt : Prop :=
  ∀ (s : State) (w : Waiting), s.engineMoves → s.engine.phase = .receiving w →
    s.line.rx = [] ∨ (∃ rest, s.line.rx = .silence :: rest) ∨
      (∃ B k rest, s.line.rx = .buffer B :: rest ∧ decodeFrame B = .fail k) →
    ∃ t : State, step s = .next t ∧ t.block = s.block ∧ t.line = { s.line with rx := s.line.rx.tail } ∧
      (2 ≤ w.attempts → t.engine = { s.engine with phase := .receiving { w with
        attempts := w.attempts - 1, waited := w.waited + (s.engine.readTimeout + s.engine.retryDelay) } }) ∧
      (w.attempts ≤ 1 → t.engine = { s.engine with
        phase := .idle
        answers := s.engine.answers ++ [.failed (.responseTimeout w.notify s.engine.maxRetries)] })

/-- 45_host_session_engine.md section 5: an unrecoverable read error ends the call with `TransportFailure`. That the
transport is then released is the model's reading of section 2 (notes/assumptions/16.md), and the grant used up is the
model's own choice (notes/assumptions/8.md). -/
def Obligations.ReadErrorIsFatal : Prop :=
  ∀ (s : State) (w : Waiting) (rest : List ReadItem), s.engineMoves → s.engine.phase = .receiving w →
    s.line.rx = .readError :: rest →
    step s = .next { s with
      grants := s.grants.tail
      line := { s.line with isOpen := false, rx := rest }
      engine := { s.engine with phase := .idle, answers := s.engine.answers ++ [.failed .transportFailure] } }

/-- 45_host_session_engine.md section 3, branch (b): a frame of another sequence costs one attempt, whatever its type:
`Request` too is skipped and no protocol violation. On the last attempt the call fails with `ResponseTimeout`; that the
transport stays held then is the model's choice (notes/assumptions/16.md). The wait counted is the spec's worst case
(notes/assumptions/15.md). -/
def Obligations.MismatchedFrameSkipped : Prop :=
  ∀ (s : State) (w : Waiting) (p : Packet), s.engine.phase = .receiving w → p.sequence ≠ w.expected →
    (2 ≤ w.attempts → exec (frameInstr p) s = .next { s with
      result := .decoded (.ok p)
      engine := { s.engine with phase := .receiving { w with
        attempts := w.attempts - 1, waited := w.waited + (s.engine.readTimeout + s.engine.retryDelay) } } }) ∧
    (w.attempts ≤ 1 → exec (frameInstr p) s = .next { s with
      result := .decoded (.ok p)
      engine := { s.engine with
        phase := .idle
        answers := s.engine.answers ++ [.failed (.responseTimeout w.notify s.engine.maxRetries)] } })

/-- 45_host_session_engine.md section 3, branch (c): a `Notify` frame of the expected sequence is counted, its payload is
discarded, and it costs one attempt; a `Notify` frame of another sequence is not counted. On the last attempt the call
fails with `ResponseTimeout`; that the transport stays held then is the model's choice (notes/assumptions/16.md). The
wait counted is the spec's worst case (notes/assumptions/15.md). -/
def Obligations.NotifyFrameAbsorbed : Prop :=
  ∀ (s : State) (w : Waiting) (payload : Bytes), s.engine.phase = .receiving w →
    (2 ≤ w.attempts → exec (.frameNotify w.expected payload) s = .next { s with
      result := .decoded (.ok ⟨.notify, w.expected, payload⟩)
      engine := { s.engine with phase := .receiving { w with
        attempts := w.attempts - 1, notify := w.notify + 1,
        waited := w.waited + (s.engine.readTimeout + s.engine.retryDelay) } } }) ∧
    (w.attempts ≤ 1 → exec (.frameNotify w.expected payload) s = .next { s with
      result := .decoded (.ok ⟨.notify, w.expected, payload⟩)
      engine := { s.engine with
        phase := .idle
        answers := s.engine.answers ++ [.failed (.responseTimeout (w.notify + 1) s.engine.maxRetries)] } }) ∧
    ∀ q : Byte, q ≠ w.expected → 2 ≤ w.attempts →
      ∃ (t : State) (w' : Waiting), exec (.frameNotify q payload) s = .next t ∧ t.engine.phase = .receiving w' ∧
        w'.notify = w.notify

/-- R148: a `Data` frame of the expected sequence is the answer: the call ends with it at once, with no pause; and no
other received frame is given to the caller as an answer. -/
def Obligations.DataFrameResolves : Prop :=
  ∀ (s : State) (w : Waiting), s.engine.phase = .receiving w →
    (∀ payload : Bytes, exec (.frameData w.expected payload) s = .next { s with
      result := .decoded (.ok ⟨.data, w.expected, payload⟩)
      engine := { s.engine with
        phase := .idle
        answers := s.engine.answers ++ [.packet ⟨.data, w.expected, payload⟩] } }) ∧
    ∀ (p a : Packet) (t : State), exec (frameInstr p) s = .next t →
      t.engine.answers = s.engine.answers ++ [.packet a] → a = p ∧ p.type = .data ∧ p.sequence = w.expected

/-- 45_host_session_engine.md section 3, branch (e): a frame of the expected sequence that is neither `Notify` nor `Data`,
which can only be a `Request`, ends the call at once with `ProtocolViolation`; a buffer of unknown type is no such frame.
That the transport stays held then is the model's choice (notes/assumptions/16.md). -/
def Obligations.RequestFrameIsViolation : Prop :=
  (∀ (s : State) (w : Waiting) (payload : Bytes), s.engine.phase = .receiving w →
    exec (.frameRequest w.expected payload) s = .next { s with
      result := .decoded (.ok ⟨.request, w.expected, payload⟩)
      engine := { s.engine with
        phase := .idle
        answers := s.engine.answers ++ [.failed .protocolViolation] } }) ∧
  ∀ (B : Bytes) (i : Instr), decode (.frame B) = .ok i → byteAt B 1 ∈ ([0x30, 0x34, 0x35] : Bytes)

/-- The model's choice (notes/assumptions/18.md): outside the retry loop a received frame leaves the engine as it
is. -/
def Obligations.FrameOutsideLoopIgnored : Prop :=
  ∀ (s : State) (p : Packet), (∀ w : Waiting, s.engine.phase ≠ .receiving w) →
    exec (frameInstr p) s = .next { s with result := .decoded (.ok p) }

/-- 45_host_session_engine.md section 3, exhaustion: a loop whose reads bring no final answer fails with
`ResponseTimeout` after exactly the attempts it had left, carrying the notifications absorbed and the budget. Every one
of the reads counts, whatever it brought. That a read beyond the listed input times out (notes/assumptions/14.md) and
that an attempt is one step (notes/assumptions/13.md) are the model's choice. -/
def Obligations.ExhaustionIsResponseTimeout : Prop :=
  ∀ (s : State) (w : Waiting), s.engineAlone → s.engine.phase = .receiving w → 1 ≤ w.attempts →
    (∀ x ∈ s.line.rx.take w.attempts, x.final w.expected = false) →
    ∃ t : State, Host.Core.run core w.attempts s = .next t ∧ t.engine.phase = .idle ∧
      t.line.rx = s.line.rx.drop w.attempts ∧
      t.engine.answers = s.engine.answers ++ [.failed (.responseTimeout
        (w.notify + (s.line.rx.take w.attempts).countP (fun x => x.carries w.expected [.notify]))
        s.engine.maxRetries)]

/-- 45_host_session_engine.md section 3, the one budget: whatever the transport yields, a call in its retry loop ends
within the attempts it has left, and the block's counter is not touched by it. That a read beyond the listed input times
out (notes/assumptions/14.md) and that an attempt is one step (notes/assumptions/13.md) are the model's choice. -/
def Obligations.RetryLoopIsBounded : Prop :=
  ∀ (s : State) (w : Waiting), s.engineAlone → s.engine.phase = .receiving w → 1 ≤ w.attempts →
    ∃ (k : Nat) (t : State), k ≤ w.attempts ∧ Host.Core.run core k s = .next t ∧ t.engine.phase = .idle ∧
      t.block = s.block ∧ t.engine.answers.length = s.engine.answers.length + 1

/-- 45_host_session_engine.md sections 3 and 4: every step keeps what a call promises at each of its stages, among it
that the attempts left are within the budget and the worst-case wait is at most `max_retries * (transport_timeout +
retry_delay)`, and that only `Request` frames are ever written. The exact wait is the spec's worst case
(notes/assumptions/15.md), that the transport stays held through a call rests on the waiting of other calls
(notes/assumptions/23.md), and the unchanging budget is the model's choice (notes/assumptions/24.md). -/
def Obligations.StepKeepsSession : Prop :=
  ∀ s t : State, s.SessionOk → s.SentRequests → step s = .next t →
    t.SessionOk ∧ t.SentRequests ∧ t.engine.maxRetries = s.engine.maxRetries ∧
      ∀ w : Waiting, t.engine.phase = .receiving w →
        w.waited + (t.engine.readTimeout + t.engine.retryDelay) ≤
          t.engine.maxRetries * (t.engine.readTimeout + t.engine.retryDelay)

/-- The three invariants hold at reset. The reset values of the fields outside the block are the model's choice
(notes/assumptions/11.md, notes/assumptions/17.md). -/
def Obligations.ResetMeetsInvariants : Prop :=
  State.reset.Linear ∧ State.reset.SessionOk ∧ State.reset.SentRequests
end

