-- ==== Sys2Proof/Laws/Codec.lean ====
section
/-! SUPPORT. The checksum's algebra (R90), reading a buffer by offset (R11), the `LENGTH` bytes (R43), the wire
values (R62), and what each outcome of `decodeFrame` says about the buffer. -/

namespace Sys2Proof.Machine

theorem foldl_xor_start (B : Bytes) (a : Byte) :
    B.foldl (fun acc b => acc ^^^ b) a = a ^^^ B.foldl (fun acc b => acc ^^^ b) 0 := by
  induction B generalizing a with
  | nil => simp
  | cons b B ih =>
    simp only [List.foldl_cons]
    rw [ih (a ^^^ b), ih (0 ^^^ b)]
    simp [BitVec.xor_assoc]

@[simp] theorem xor8_nil : xor8 [] = 0 := rfl

@[simp] theorem xor8_cons (b : Byte) (B : Bytes) : xor8 (b :: B) = b ^^^ xor8 B := by
  simp only [xor8, List.foldl_cons]
  rw [foldl_xor_start]
  simp

/-- R90: `xor8 (A ++ B) = xor8 A xor xor8 B`. -/
@[simp] theorem xor8_append (A B : Bytes) : xor8 (A ++ B) = xor8 A ^^^ xor8 B := by
  induction A with
  | nil => simp
  | cons a A ih => simp [ih, BitVec.xor_assoc]

/-- R90: `xor8` does not depend on the order of the bytes. -/
theorem xor8_perm {A B : Bytes} (h : A.Perm B) : xor8 A = xor8 B := by
  induction h with
  | nil => rfl
  | cons b _ ih => simp [ih]
  | swap a b l => simp [← BitVec.xor_assoc, BitVec.xor_comm]
  | trans _ _ ih₁ ih₂ => exact ih₁.trans ih₂

@[simp] theorem byteAt_zero (b : Byte) (B : Bytes) : byteAt (b :: B) 0 = b := rfl

@[simp] theorem byteAt_succ (b : Byte) (B : Bytes) (i : Nat) : byteAt (b :: B) (i + 1) = byteAt B i := rfl

theorem byteAt_append_right (A B : Bytes) (i : Nat) : byteAt (A ++ B) (A.length + i) = byteAt B i := by
  simp [byteAt, List.getElem?_append_right]

theorem byteAt_append_left {A : Bytes} (B : Bytes) {i : Nat} (h : i < A.length) : byteAt (A ++ B) i = byteAt A i := by
  simp [byteAt, List.getElem?_append_left h]

@[simp] theorem memRead_zero (B : Bytes) (n : Nat) : memRead B 0 n = B.take n := rfl

@[simp] theorem memRead_cons_succ (b : Byte) (B : Bytes) (i n : Nat) :
    memRead (b :: B) (i + 1) n = memRead B i n := rfl

/-- Reading one byte more appends it. -/
theorem memRead_succ (B : Bytes) (i n : Nat) (h : i + n < B.length) :
    memRead B i (n + 1) = memRead B i n ++ [byteAt B (i + n)] := by
  simp [memRead, byteAt, List.take_add_one, h]

@[simp] theorem memRead_length (B : Bytes) (i n : Nat) : (memRead B i n).length = min n (B.length - i) := by
  simp [memRead]

@[simp] theorem unwire_wire (t : PacketType) : unwire (wire t) = some t := by
  cases t <;> rfl

theorem wire_injective {t u : PacketType} (h : wire t = wire u) : t = u := by
  have := congrArg unwire h
  simpa using this

theorem unwire_eq_some_iff {b : Byte} {t : PacketType} : unwire b = some t ↔ b = wire t := by
  constructor
  · intro h
    unfold unwire at h
    split at h
    · cases h; assumption
    · split at h
      · cases h; assumption
      · split at h
        · cases h; assumption
        · cases h
  · rintro rfl
    exact unwire_wire t

theorem unwire_eq_none_iff {b : Byte} : unwire b = none ↔ b ∉ typeCodes := by
  simp only [unwire, typeCodes, List.mem_cons, List.not_mem_nil, or_false, not_or]
  split
  · simp_all
  · split
    · simp_all
    · split
      · simp_all
      · simp_all

@[simp] theorem lengthBytes_length (o : LenOrder) (L : Nat) : (lengthBytes o L).length = 2 := by
  cases o <;> rfl

theorem lengthValue_lt (o : LenOrder) (b3 b4 : Byte) : lengthValue o b3 b4 < 65536 := by
  have h3 := b3.isLt
  have h4 := b4.isLt
  cases o <;> simp only [lengthValue] <;> omega

/-- `DECODE`'s judgement with the offsets and sizes of the frame as numbers (table of R41). -/
theorem decodeFrame_eq (B : Bytes) :
    decodeFrame B =
      if B.length < 7 then .fail .tooShort
      else if byteAt B 0 ≠ 0x02 ∨ byteAt B (B.length - 1) ≠ 0x03 then .fail .badFraming
      else if B.length < 7 + lengthField B then .fail .incomplete
      else if 7 + lengthField B < B.length then .fail .badFraming
      else if xor8 (memRead B 1 (4 + lengthField B)) ≠ byteAt B (5 + lengthField B) then .fail .checksumMismatch
      else
        match unwire (byteAt B 1) with
        | none => .fail .unknownType
        | some t => .ok ⟨t, byteAt B 2, memRead B 5 (lengthField B)⟩ := rfl

/-- The `LENGTH` field is `LEN_BYTES` bytes (R7). -/
theorem lengthBytes_lenBytes (o : LenOrder) (L : Nat) : (lengthBytes o L).length = Config.lenBytes :=
  lengthBytes_length o L

/-- The smallest frame is a frame's bytes that are not payload (R7). -/
theorem frameOverhead_eq : Config.frameOverhead = Config.frameMin := rfl

theorem lengthField_value (B : Bytes) :
    lengthField B = lengthValue Config.lenOrder (byteAt B 3) (byteAt B 4) := rfl

theorem lengthField_eq (B : Bytes) : lengthField B = (byteAt B 3).toNat + 256 * (byteAt B 4).toNat := rfl

/-- `DECODE` answers a packet exactly when no check fails (R107). -/
theorem decodeFrame_eq_ok_iff (B : Bytes) (p : Packet) :
    decodeFrame B = .ok p ↔
      7 ≤ B.length ∧ byteAt B 0 = 0x02 ∧ byteAt B (B.length - 1) = 0x03 ∧ B.length = 7 + lengthField B ∧
      xor8 (memRead B 1 (4 + lengthField B)) = byteAt B (5 + lengthField B) ∧ byteAt B 1 = wire p.type ∧
      p.sequence = byteAt B 2 ∧ p.payload = memRead B 5 (lengthField B) := by
  rw [decodeFrame_eq]
  split
  · simp; omega
  split
  · simp only [reduceCtorEq, false_iff]; tauto
  split
  · simp only [reduceCtorEq, false_iff]; omega
  split
  · simp only [reduceCtorEq, false_iff]; omega
  split
  · simp only [reduceCtorEq, false_iff]; tauto
  rename_i h1 h2 h3 h4 h5
  simp only [not_or, not_not] at h2 h5
  have hlen : B.length = 7 + lengthField B := by omega
  cases hu : unwire (byteAt B 1) with
  | none =>
    simp only [reduceCtorEq, false_iff]
    rintro ⟨_, _, _, _, _, h, _⟩
    simp [h] at hu
  | some t =>
    rw [unwire_eq_some_iff] at hu
    cases p
    simp only [DecodeResult.ok.injEq, Packet.mk.injEq]
    constructor
    · rintro ⟨rfl, rfl, rfl⟩
      exact ⟨by omega, h2.1, h2.2, hlen, h5, hu, rfl, rfl⟩
    · rintro ⟨_, _, _, _, _, h, rfl, rfl⟩
      exact ⟨wire_injective (hu.symm.trans h), rfl, rfl⟩

/-- A buffer of fewer than 7 bytes (R101). -/
theorem decodeFrame_short {B : Bytes} (h : B.length < 7) : decodeFrame B = .fail .tooShort := by
  rw [decodeFrame_eq, if_pos h]

/-- A wrong delimiter (R102). -/
theorem decodeFrame_delimiter {B : Bytes} (h : 7 ≤ B.length)
    (hd : byteAt B 0 ≠ 0x02 ∨ byteAt B (B.length - 1) ≠ 0x03) : decodeFrame B = .fail .badFraming := by
  rw [decodeFrame_eq]
  rw [if_neg (by omega), if_pos hd]

/-- The length checks, once the delimiters are right (R103, R104). -/
theorem decodeFrame_length {B : Bytes} (h : 7 ≤ B.length) (h0 : byteAt B 0 = 0x02)
    (h1 : byteAt B (B.length - 1) = 0x03) (hn : B.length ≠ 7 + lengthField B) :
    decodeFrame B = if B.length < 7 + lengthField B then .fail .incomplete else .fail .badFraming := by
  rw [decodeFrame_eq]
  rw [if_neg (by omega), if_neg (by simp [h0, h1])]
  split
  · rfl
  · rw [if_pos (by omega)]

/-- The last two checks, once the size is right (R105, R106, R107). -/
theorem decodeFrame_exact {B : Bytes} (hn : B.length = 7 + lengthField B) (h0 : byteAt B 0 = 0x02)
    (h1 : byteAt B (B.length - 1) = 0x03) :
    decodeFrame B =
      if xor8 (memRead B 1 (4 + lengthField B)) ≠ byteAt B (5 + lengthField B) then .fail .checksumMismatch
      else
        match unwire (byteAt B 1) with
        | none => .fail .unknownType
        | some t => .ok ⟨t, byteAt B 2, memRead B 5 (lengthField B)⟩ := by
  rw [decodeFrame_eq]
  exact (if_neg (by omega)).trans ((if_neg (by simp [h0, h1])).trans ((if_neg (by omega)).trans (if_neg (by omega))))

/-- A buffer given by its parts: first byte, header, payload, checksum byte, last byte (R41). -/
def parts (x t q b3 b4 : Byte) (payload : Bytes) (k e : Byte) : Bytes := x :: t :: q :: b3 :: b4 :: (payload ++ [k, e])

@[simp] theorem parts_length (x t q b3 b4 : Byte) (payload : Bytes) (k e : Byte) :
    (parts x t q b3 b4 payload k e).length = 7 + payload.length := by
  simp [parts]; omega

/-- Reading the parts back, each at its offset (table of R41). -/
theorem parts_fields (x t q b3 b4 : Byte) (payload : Bytes) (k e : Byte) :
    byteAt (parts x t q b3 b4 payload k e) 0 = x ∧ byteAt (parts x t q b3 b4 payload k e) 1 = t ∧
    byteAt (parts x t q b3 b4 payload k e) 2 = q ∧ byteAt (parts x t q b3 b4 payload k e) 3 = b3 ∧
    byteAt (parts x t q b3 b4 payload k e) 4 = b4 ∧
    memRead (parts x t q b3 b4 payload k e) 5 payload.length = payload ∧
    byteAt (parts x t q b3 b4 payload k e) (5 + payload.length) = k ∧
    byteAt (parts x t q b3 b4 payload k e) (6 + payload.length) = e ∧
    memRead (parts x t q b3 b4 payload k e) 1 (4 + payload.length) = [t, q, b3, b4] ++ payload := by
  refine ⟨rfl, rfl, rfl, rfl, rfl, ?_, ?_, ?_, ?_⟩
  · simp [parts, memRead]
  · have h := byteAt_append_right [x, t, q, b3, b4] (payload ++ [k, e]) payload.length
    have h' := byteAt_append_right payload [k, e] 0
    simpa [parts, Nat.add_comm] using h.trans h'
  · have h := byteAt_append_right [x, t, q, b3, b4] (payload ++ [k, e]) (payload.length + 1)
    have h' := byteAt_append_right payload [k, e] 1
    have e' : 6 + payload.length = 5 + (payload.length + 1) := by omega
    rw [e']
    simpa [parts] using h.trans h'
  · have e' : 4 + payload.length = payload.length + 4 := by omega
    simp [parts, memRead, e']

/-- Every buffer of 7 bytes or more is given by its parts. -/
theorem exists_parts {B : Bytes} (h : 7 ≤ B.length) :
    ∃ x t q b3 b4 payload k e, B = parts x t q b3 b4 payload k e := by
  match B, h with
  | x :: t :: q :: b3 :: b4 :: rest, h =>
    have hr : 2 ≤ rest.length := by simp at h; omega
    have hd : (rest.drop (rest.length - 2)).length = 2 := by simp; omega
    match hm : rest.drop (rest.length - 2), hd with
    | [k, e], _ =>
      exact ⟨x, t, q, b3, b4, rest.take (rest.length - 2), k, e, by rw [parts, ← hm, List.take_append_drop]⟩

/-- A frame is given by its parts (R60). -/
theorem frameIn_eq_parts (o : LenOrder) (p : Packet) :
    ∃ b3 b4, lengthBytes o p.payload.length = [b3, b4] ∧
      frameIn o p = parts 0x02 (wire p.type) p.sequence b3 b4 p.payload
        (xor8 ([wire p.type, p.sequence, b3, b4] ++ p.payload)) 0x03 := by
  cases o <;> exact ⟨_, _, rfl, rfl⟩

/-- Reading a `LENGTH` field in the order it was written in (R43). -/
theorem lengthValue_lengthBytes (o : LenOrder) {L : Nat} (h : L ≤ 65535) {b3 b4 : Byte}
    (hb : lengthBytes o L = [b3, b4]) : lengthValue o b3 b4 = L := by
  cases o <;> simp only [lengthBytes, List.cons.injEq, and_true] at hb <;> obtain ⟨rfl, rfl⟩ := hb <;>
    simp [lengthValue] <;> omega

/-- `DECODE`'s judgement of a buffer given by its parts: the whole of R102 to R107. -/
theorem decodeFrame_parts (x t q b3 b4 : Byte) (payload : Bytes) (k e : Byte) :
    decodeFrame (parts x t q b3 b4 payload k e) =
      if x ≠ 0x02 ∨ e ≠ 0x03 then .fail .badFraming
      else if payload.length ≠ lengthValue Config.lenOrder b3 b4 then
        if payload.length < lengthValue Config.lenOrder b3 b4 then .fail .incomplete else .fail .badFraming
      else if xor8 ([t, q, b3, b4] ++ payload) ≠ k then .fail .checksumMismatch
      else
        match unwire t with
        | none => .fail .unknownType
        | some ty => .ok ⟨ty, q, payload⟩ := by
  obtain ⟨h0, h1, h2, h3, h4, h5, h6, h7, h8⟩ := parts_fields x t q b3 b4 payload k e
  have hlast : byteAt (parts x t q b3 b4 payload k e) ((parts x t q b3 b4 payload k e).length - 1) = e := by
    rw [parts_length, show 7 + payload.length - 1 = 6 + payload.length by omega, h7]
  have hL : lengthField (parts x t q b3 b4 payload k e) = lengthValue Config.lenOrder b3 b4 := by
    rw [lengthField_value, h3, h4]
  by_cases hd : x ≠ 0x02 ∨ e ≠ 0x03
  · rw [if_pos hd]
    exact decodeFrame_delimiter (by simp) (by rwa [h0, hlast])
  rw [if_neg hd]
  simp only [not_or, not_not] at hd
  by_cases hn : payload.length = lengthValue Config.lenOrder b3 b4
  · rw [if_neg (by simpa using hn), decodeFrame_exact (by rw [hL, parts_length, hn]) (by rw [h0, hd.1])
      (by rw [hlast, hd.2]), hL, ← hn, h8, h6, h1, h2, h5]
  · rw [if_pos hn, decodeFrame_length (by simp) (by rw [h0, hd.1]) (by rw [hlast, hd.2])
      (by rw [hL, parts_length]; omega), hL, parts_length]
    simp only [Nat.add_lt_add_iff_left]

end Sys2Proof.Machine
end

