-- ==== Sys2Proof/Laws/PerInstr.lean ====
section
/-! SUPPORT. The family `OwnRow`, one lemma for each constructor of `Instr`: an instruction's encoding matches its own
row of spec/opcode_table.json (R70, R71) and no other. -/

namespace Sys2Proof.Laws

/-- A row of spec/opcode_table.json: whether its format is FRAME, its match and its mask. -/
structure TableRow where
  mnemonic : String
  isFrame  : Bool
  value   : Nat
  mask     : Nat
  deriving DecidableEq, Repr

/-- The eight rows. -/
def opcodeTable : List TableRow :=
  [⟨"ENCODE", false, 0x0, 0x7⟩, ⟨"DECODE", false, 0x1, 0x7⟩, ⟨"SEQ_NEXT", false, 0x2, 0x7⟩,
    ⟨"SEQ_RESET", false, 0x3, 0x7⟩, ⟨"SEQ_CURRENT", false, 0x4, 0x7⟩, ⟨"FRAME.REQUEST", true, 0x0230, 0xFFFF⟩,
    ⟨"FRAME.NOTIFY", true, 0x0234, 0xFFFF⟩, ⟨"FRAME.DATA", true, 0x0235, 0xFFFF⟩]

/-- The mnemonic of an instruction. -/
def mnemonicOf : Instr → String
  | .encode _ _ _ => "ENCODE"
  | .decode _ => "DECODE"
  | .seqNext => "SEQ_NEXT"
  | .seqReset => "SEQ_RESET"
  | .seqCurrent => "SEQ_CURRENT"
  | .frameRequest _ _ => "FRAME.REQUEST"
  | .frameNotify _ _ => "FRAME.NOTIFY"
  | .frameData _ _ => "FRAME.DATA"

/-- Whether an encoding matches a row: a FRAME row is over the first two bytes, offset 0 the high half (R70). -/
def TableRow.fits (row : TableRow) : Encoded → Bool
  | .command r => !row.isFrame && (r.op.toNat &&& row.mask) == row.value
  | .frame B =>
    row.isFrame && ((256 * (Machine.byteAt B 0).toNat + (Machine.byteAt B 1).toNat) &&& row.mask) == row.value

/-- The first two bytes of an encoded frame. -/
theorem encodeFrame_first (p : Packet) :
    Machine.byteAt (Machine.encodeFrame p) 0 = 0x02 ∧ Machine.byteAt (Machine.encodeFrame p) 1 = Machine.wire p.type :=
  ⟨rfl, rfl⟩

/-- The rows an instruction's encoding fits are exactly its own. -/
def OwnRow.Statement (i : Instr) : Prop :=
  opcodeTable.filter (fun row => row.fits (encode i)) = opcodeTable.filter (fun row => row.mnemonic == mnemonicOf i)

theorem OwnRow.encode (type sequence : Byte) (payload : Bytes) : OwnRow.Statement (.encode type sequence payload) := by
  simp [OwnRow.Statement, opcodeTable, TableRow.fits, Sys2Proof.encode, mnemonicOf]

theorem OwnRow.decode (buffer : Bytes) : OwnRow.Statement (.decode buffer) := by
  simp [OwnRow.Statement, opcodeTable, TableRow.fits, Sys2Proof.encode, plainRequest, mnemonicOf]

theorem OwnRow.seqNext : OwnRow.Statement .seqNext := by
  simp [OwnRow.Statement, opcodeTable, TableRow.fits, Sys2Proof.encode, plainRequest, mnemonicOf]

theorem OwnRow.seqReset : OwnRow.Statement .seqReset := by
  simp [OwnRow.Statement, opcodeTable, TableRow.fits, Sys2Proof.encode, plainRequest, mnemonicOf]

theorem OwnRow.seqCurrent : OwnRow.Statement .seqCurrent := by
  simp [OwnRow.Statement, opcodeTable, TableRow.fits, Sys2Proof.encode, plainRequest, mnemonicOf]

theorem OwnRow.frameRequest (sequence : Byte) (payload : Bytes) : OwnRow.Statement (.frameRequest sequence payload) := by
  simp [OwnRow.Statement, opcodeTable, TableRow.fits, Sys2Proof.encode, encodeFrame_first, Machine.wire, mnemonicOf]

theorem OwnRow.frameNotify (sequence : Byte) (payload : Bytes) : OwnRow.Statement (.frameNotify sequence payload) := by
  simp [OwnRow.Statement, opcodeTable, TableRow.fits, Sys2Proof.encode, encodeFrame_first, Machine.wire, mnemonicOf]

theorem OwnRow.frameData (sequence : Byte) (payload : Bytes) : OwnRow.Statement (.frameData sequence payload) := by
  simp [OwnRow.Statement, opcodeTable, TableRow.fits, Sys2Proof.encode, encodeFrame_first, Machine.wire, mnemonicOf]

end Sys2Proof.Laws
end

