-- ==== Sys2Proof/Laws/State.lean ====
section
/-! SUPPORT. One lemma for each field of the state under each named update, so that no proof unfolds a record
update. -/

namespace Sys2Proof.Machine

@[simp] theorem setCounter_block (s : State) (v : Byte) : (s.setCounter v).block = ⟨v⟩ := rfl
@[simp] theorem setCounter_result (s : State) (v : Byte) : (s.setCounter v).result = s.result := rfl
@[simp] theorem setCounter_pending (s : State) (v : Byte) : (s.setCounter v).pending = s.pending := rfl
@[simp] theorem setCounter_resetAsserted (s : State) (v : Byte) :
    (s.setCounter v).resetAsserted = s.resetAsserted := rfl
@[simp] theorem setCounter_grants (s : State) (v : Byte) : (s.setCounter v).grants = s.grants := rfl
@[simp] theorem setCounter_history (s : State) (v : Byte) : (s.setCounter v).history = s.history := rfl
@[simp] theorem setCounter_refusals (s : State) (v : Byte) : (s.setCounter v).refusals = s.refusals := rfl
@[simp] theorem setCounter_engine (s : State) (v : Byte) : (s.setCounter v).engine = s.engine := rfl
@[simp] theorem setCounter_line (s : State) (v : Byte) : (s.setCounter v).line = s.line := rfl

@[simp] theorem setResult_block (s : State) (r : Result) : (s.setResult r).block = s.block := rfl
@[simp] theorem setResult_result (s : State) (r : Result) : (s.setResult r).result = r := rfl
@[simp] theorem setResult_pending (s : State) (r : Result) : (s.setResult r).pending = s.pending := rfl
@[simp] theorem setResult_resetAsserted (s : State) (r : Result) :
    (s.setResult r).resetAsserted = s.resetAsserted := rfl
@[simp] theorem setResult_grants (s : State) (r : Result) : (s.setResult r).grants = s.grants := rfl
@[simp] theorem setResult_history (s : State) (r : Result) : (s.setResult r).history = s.history := rfl
@[simp] theorem setResult_refusals (s : State) (r : Result) : (s.setResult r).refusals = s.refusals := rfl
@[simp] theorem setResult_engine (s : State) (r : Result) : (s.setResult r).engine = s.engine := rfl
@[simp] theorem setResult_line (s : State) (r : Result) : (s.setResult r).line = s.line := rfl

@[simp] theorem deliverFailure_block (s : State) (k : DecodeFailure) : (s.deliverFailure k).block = s.block := rfl
@[simp] theorem deliverFailure_result (s : State) (k : DecodeFailure) :
    (s.deliverFailure k).result = .decoded (.fail k) := rfl
@[simp] theorem deliverFailure_pending (s : State) (k : DecodeFailure) :
    (s.deliverFailure k).pending = s.pending := rfl
@[simp] theorem deliverFailure_resetAsserted (s : State) (k : DecodeFailure) :
    (s.deliverFailure k).resetAsserted = s.resetAsserted := rfl
@[simp] theorem deliverFailure_grants (s : State) (k : DecodeFailure) : (s.deliverFailure k).grants = s.grants := rfl
@[simp] theorem deliverFailure_history (s : State) (k : DecodeFailure) :
    (s.deliverFailure k).history = s.history := rfl
@[simp] theorem deliverFailure_refusals (s : State) (k : DecodeFailure) :
    (s.deliverFailure k).refusals = s.refusals := rfl
@[simp] theorem deliverFailure_engine (s : State) (k : DecodeFailure) : (s.deliverFailure k).engine = s.engine := rfl
@[simp] theorem deliverFailure_line (s : State) (k : DecodeFailure) : (s.deliverFailure k).line = s.line := rfl

@[simp] theorem deliverPacket_block (s : State) (p : Packet) : (s.deliverPacket p).block = s.block := rfl
@[simp] theorem deliverPacket_result (s : State) (p : Packet) : (s.deliverPacket p).result = .decoded (.ok p) := rfl
@[simp] theorem deliverPacket_pending (s : State) (p : Packet) : (s.deliverPacket p).pending = s.pending := rfl
@[simp] theorem deliverPacket_resetAsserted (s : State) (p : Packet) :
    (s.deliverPacket p).resetAsserted = s.resetAsserted := rfl
@[simp] theorem deliverPacket_grants (s : State) (p : Packet) : (s.deliverPacket p).grants = s.grants := rfl
@[simp] theorem deliverPacket_history (s : State) (p : Packet) : (s.deliverPacket p).history = s.history := rfl
@[simp] theorem deliverPacket_refusals (s : State) (p : Packet) : (s.deliverPacket p).refusals = s.refusals := rfl
@[simp] theorem deliverPacket_engine (s : State) (p : Packet) : (s.deliverPacket p).engine = s.engine := rfl
@[simp] theorem deliverPacket_line (s : State) (p : Packet) : (s.deliverPacket p).line = s.line := rfl

@[simp] theorem applyReset_block (s : State) : s.applyReset.block = ⟨0⟩ := rfl
@[simp] theorem applyReset_result (s : State) : s.applyReset.result = s.result := rfl
@[simp] theorem applyReset_pending (s : State) : s.applyReset.pending = s.pending := rfl
@[simp] theorem applyReset_resetAsserted (s : State) : s.applyReset.resetAsserted = false := rfl
@[simp] theorem applyReset_grants (s : State) : s.applyReset.grants = s.grants := rfl
@[simp] theorem applyReset_history (s : State) : s.applyReset.history = s.history ++ [.reset] := rfl
@[simp] theorem applyReset_refusals (s : State) : s.applyReset.refusals = s.refusals := rfl
@[simp] theorem applyReset_engine (s : State) : s.applyReset.engine = s.engine := rfl
@[simp] theorem applyReset_line (s : State) : s.applyReset.line = s.line := rfl

@[simp] theorem record_block (s : State) (a : Agent) (i : Instr) : (s.record a i).block = s.block := rfl
@[simp] theorem record_result (s : State) (a : Agent) (i : Instr) : (s.record a i).result = s.result := rfl
@[simp] theorem record_pending (s : State) (a : Agent) (i : Instr) : (s.record a i).pending = s.pending := rfl
@[simp] theorem record_resetAsserted (s : State) (a : Agent) (i : Instr) :
    (s.record a i).resetAsserted = s.resetAsserted := rfl
@[simp] theorem record_grants (s : State) (a : Agent) (i : Instr) : (s.record a i).grants = s.grants := rfl
@[simp] theorem record_history (s : State) (a : Agent) (i : Instr) :
    (s.record a i).history = s.history ++ [.served a i s.result] := rfl
@[simp] theorem record_refusals (s : State) (a : Agent) (i : Instr) : (s.record a i).refusals = s.refusals := rfl
@[simp] theorem record_engine (s : State) (a : Agent) (i : Instr) : (s.record a i).engine = s.engine := rfl
@[simp] theorem record_line (s : State) (a : Agent) (i : Instr) : (s.record a i).line = s.line := rfl

@[simp] theorem setPhase_block (s : State) (p : Phase) : (s.setPhase p).block = s.block := rfl
@[simp] theorem setPhase_result (s : State) (p : Phase) : (s.setPhase p).result = s.result := rfl
@[simp] theorem setPhase_pending (s : State) (p : Phase) : (s.setPhase p).pending = s.pending := rfl
@[simp] theorem setPhase_resetAsserted (s : State) (p : Phase) : (s.setPhase p).resetAsserted = s.resetAsserted := rfl
@[simp] theorem setPhase_grants (s : State) (p : Phase) : (s.setPhase p).grants = s.grants := rfl
@[simp] theorem setPhase_history (s : State) (p : Phase) : (s.setPhase p).history = s.history := rfl
@[simp] theorem setPhase_refusals (s : State) (p : Phase) : (s.setPhase p).refusals = s.refusals := rfl
@[simp] theorem setPhase_engine (s : State) (p : Phase) : (s.setPhase p).engine = { s.engine with phase := p } := rfl
@[simp] theorem setPhase_line (s : State) (p : Phase) : (s.setPhase p).line = s.line := rfl

@[simp] theorem finishCall_block (s : State) (r : CallResult) : (s.finishCall r).block = s.block := rfl
@[simp] theorem finishCall_result (s : State) (r : CallResult) : (s.finishCall r).result = s.result := rfl
@[simp] theorem finishCall_pending (s : State) (r : CallResult) : (s.finishCall r).pending = s.pending := rfl
@[simp] theorem finishCall_resetAsserted (s : State) (r : CallResult) :
    (s.finishCall r).resetAsserted = s.resetAsserted := rfl
@[simp] theorem finishCall_grants (s : State) (r : CallResult) : (s.finishCall r).grants = s.grants := rfl
@[simp] theorem finishCall_history (s : State) (r : CallResult) : (s.finishCall r).history = s.history := rfl
@[simp] theorem finishCall_refusals (s : State) (r : CallResult) : (s.finishCall r).refusals = s.refusals := rfl
@[simp] theorem finishCall_engine (s : State) (r : CallResult) :
    (s.finishCall r).engine = { s.engine with phase := .idle, answers := s.engine.answers ++ [r] } := rfl
@[simp] theorem finishCall_line (s : State) (r : CallResult) : (s.finishCall r).line = s.line := rfl

@[simp] theorem setCalls_block (s : State) (cs : List HostCall) : (s.setCalls cs).block = s.block := rfl
@[simp] theorem setCalls_result (s : State) (cs : List HostCall) : (s.setCalls cs).result = s.result := rfl
@[simp] theorem setCalls_pending (s : State) (cs : List HostCall) : (s.setCalls cs).pending = s.pending := rfl
@[simp] theorem setCalls_resetAsserted (s : State) (cs : List HostCall) :
    (s.setCalls cs).resetAsserted = s.resetAsserted := rfl
@[simp] theorem setCalls_grants (s : State) (cs : List HostCall) : (s.setCalls cs).grants = s.grants := rfl
@[simp] theorem setCalls_history (s : State) (cs : List HostCall) : (s.setCalls cs).history = s.history := rfl
@[simp] theorem setCalls_refusals (s : State) (cs : List HostCall) : (s.setCalls cs).refusals = s.refusals := rfl
@[simp] theorem setCalls_engine (s : State) (cs : List HostCall) :
    (s.setCalls cs).engine = { s.engine with calls := cs } := rfl
@[simp] theorem setCalls_line (s : State) (cs : List HostCall) : (s.setCalls cs).line = s.line := rfl

@[simp] theorem setOpen_block (s : State) (b : Bool) : (s.setOpen b).block = s.block := rfl
@[simp] theorem setOpen_result (s : State) (b : Bool) : (s.setOpen b).result = s.result := rfl
@[simp] theorem setOpen_pending (s : State) (b : Bool) : (s.setOpen b).pending = s.pending := rfl
@[simp] theorem setOpen_resetAsserted (s : State) (b : Bool) : (s.setOpen b).resetAsserted = s.resetAsserted := rfl
@[simp] theorem setOpen_grants (s : State) (b : Bool) : (s.setOpen b).grants = s.grants := rfl
@[simp] theorem setOpen_history (s : State) (b : Bool) : (s.setOpen b).history = s.history := rfl
@[simp] theorem setOpen_refusals (s : State) (b : Bool) : (s.setOpen b).refusals = s.refusals := rfl
@[simp] theorem setOpen_engine (s : State) (b : Bool) : (s.setOpen b).engine = s.engine := rfl
@[simp] theorem setOpen_line (s : State) (b : Bool) : (s.setOpen b).line = { s.line with isOpen := b } := rfl

@[simp] theorem opened_block (s : State) : s.opened.block = s.block := rfl
@[simp] theorem opened_result (s : State) : s.opened.result = s.result := rfl
@[simp] theorem opened_pending (s : State) : s.opened.pending = s.pending := rfl
@[simp] theorem opened_resetAsserted (s : State) : s.opened.resetAsserted = s.resetAsserted := rfl
@[simp] theorem opened_grants (s : State) : s.opened.grants = s.grants := rfl
@[simp] theorem opened_history (s : State) : s.opened.history = s.history := rfl
@[simp] theorem opened_refusals (s : State) : s.opened.refusals = s.refusals := rfl
@[simp] theorem opened_engine (s : State) : s.opened.engine = s.engine := rfl
@[simp] theorem opened_line (s : State) : s.opened.line = { s.line with opens := s.line.opens.tail } := rfl

@[simp] theorem written_block (s : State) : s.written.block = s.block := rfl
@[simp] theorem written_result (s : State) : s.written.result = s.result := rfl
@[simp] theorem written_pending (s : State) : s.written.pending = s.pending := rfl
@[simp] theorem written_resetAsserted (s : State) : s.written.resetAsserted = s.resetAsserted := rfl
@[simp] theorem written_grants (s : State) : s.written.grants = s.grants := rfl
@[simp] theorem written_history (s : State) : s.written.history = s.history := rfl
@[simp] theorem written_refusals (s : State) : s.written.refusals = s.refusals := rfl
@[simp] theorem written_engine (s : State) : s.written.engine = s.engine := rfl
@[simp] theorem written_line (s : State) : s.written.line = { s.line with writes := s.line.writes.tail } := rfl

@[simp] theorem setRx_block (s : State) (rx : List ReadItem) : (s.setRx rx).block = s.block := rfl
@[simp] theorem setRx_result (s : State) (rx : List ReadItem) : (s.setRx rx).result = s.result := rfl
@[simp] theorem setRx_pending (s : State) (rx : List ReadItem) : (s.setRx rx).pending = s.pending := rfl
@[simp] theorem setRx_resetAsserted (s : State) (rx : List ReadItem) :
    (s.setRx rx).resetAsserted = s.resetAsserted := rfl
@[simp] theorem setRx_grants (s : State) (rx : List ReadItem) : (s.setRx rx).grants = s.grants := rfl
@[simp] theorem setRx_history (s : State) (rx : List ReadItem) : (s.setRx rx).history = s.history := rfl
@[simp] theorem setRx_refusals (s : State) (rx : List ReadItem) : (s.setRx rx).refusals = s.refusals := rfl
@[simp] theorem setRx_engine (s : State) (rx : List ReadItem) : (s.setRx rx).engine = s.engine := rfl
@[simp] theorem setRx_line (s : State) (rx : List ReadItem) : (s.setRx rx).line = { s.line with rx := rx } := rfl

@[simp] theorem transmitted_block (s : State) (F : Bytes) : (s.transmitted F).block = s.block := rfl
@[simp] theorem transmitted_result (s : State) (F : Bytes) : (s.transmitted F).result = s.result := rfl
@[simp] theorem transmitted_pending (s : State) (F : Bytes) : (s.transmitted F).pending = s.pending := rfl
@[simp] theorem transmitted_resetAsserted (s : State) (F : Bytes) :
    (s.transmitted F).resetAsserted = s.resetAsserted := rfl
@[simp] theorem transmitted_grants (s : State) (F : Bytes) : (s.transmitted F).grants = s.grants := rfl
@[simp] theorem transmitted_history (s : State) (F : Bytes) : (s.transmitted F).history = s.history := rfl
@[simp] theorem transmitted_refusals (s : State) (F : Bytes) : (s.transmitted F).refusals = s.refusals := rfl
@[simp] theorem transmitted_engine (s : State) (F : Bytes) : (s.transmitted F).engine = s.engine := rfl
@[simp] theorem transmitted_line (s : State) (F : Bytes) :
    (s.transmitted F).line = { s.line with tx := s.line.tx ++ [F] } := rfl

@[simp] theorem failTransport_block (s : State) : s.failTransport.block = s.block := rfl
@[simp] theorem failTransport_result (s : State) : s.failTransport.result = s.result := rfl
@[simp] theorem failTransport_pending (s : State) : s.failTransport.pending = s.pending := rfl
@[simp] theorem failTransport_resetAsserted (s : State) : s.failTransport.resetAsserted = s.resetAsserted := rfl
@[simp] theorem failTransport_grants (s : State) : s.failTransport.grants = s.grants := rfl
@[simp] theorem failTransport_history (s : State) : s.failTransport.history = s.history := rfl
@[simp] theorem failTransport_refusals (s : State) : s.failTransport.refusals = s.refusals := rfl
@[simp] theorem failTransport_engine (s : State) :
    s.failTransport.engine = { s.engine with phase := .idle, answers := s.engine.answers ++ [.failed .transportFailure] } := rfl
@[simp] theorem failTransport_line (s : State) : s.failTransport.line = { s.line with isOpen := false } := rfl

@[simp] theorem popGrant_block (s : State) : s.popGrant.block = s.block := rfl
@[simp] theorem popGrant_result (s : State) : s.popGrant.result = s.result := rfl
@[simp] theorem popGrant_pending (s : State) : s.popGrant.pending = s.pending := rfl
@[simp] theorem popGrant_resetAsserted (s : State) : s.popGrant.resetAsserted = s.resetAsserted := rfl
@[simp] theorem popGrant_grants (s : State) : s.popGrant.grants = s.grants.tail := rfl
@[simp] theorem popGrant_history (s : State) : s.popGrant.history = s.history := rfl
@[simp] theorem popGrant_refusals (s : State) : s.popGrant.refusals = s.refusals := rfl
@[simp] theorem popGrant_engine (s : State) : s.popGrant.engine = s.engine := rfl
@[simp] theorem popGrant_line (s : State) : s.popGrant.line = s.line := rfl

@[simp] theorem markRefused_block (s : State) (a : Agent) (e : Refusal) : (s.markRefused a e).block = s.block := rfl
@[simp] theorem markRefused_result (s : State) (a : Agent) (e : Refusal) :
    (s.markRefused a e).result = s.result := rfl
@[simp] theorem markRefused_pending (s : State) (a : Agent) (e : Refusal) :
    (s.markRefused a e).pending = s.pending := rfl
@[simp] theorem markRefused_resetAsserted (s : State) (a : Agent) (e : Refusal) :
    (s.markRefused a e).resetAsserted = s.resetAsserted := rfl
@[simp] theorem markRefused_grants (s : State) (a : Agent) (e : Refusal) :
    (s.markRefused a e).grants = s.grants := rfl
@[simp] theorem markRefused_history (s : State) (a : Agent) (e : Refusal) :
    (s.markRefused a e).history = s.history := rfl
@[simp] theorem markRefused_refusals (s : State) (a : Agent) (e : Refusal) :
    (s.markRefused a e).refusals = s.refusals ++ [(a, e)] := rfl
@[simp] theorem markRefused_engine (s : State) (a : Agent) (e : Refusal) :
    (s.markRefused a e).engine = s.engine := rfl
@[simp] theorem markRefused_line (s : State) (a : Agent) (e : Refusal) : (s.markRefused a e).line = s.line := rfl

@[simp] theorem present_block (s : State) (r : Nat) (q : Request) : (s.present r q).block = s.block := rfl
@[simp] theorem present_result (s : State) (r : Nat) (q : Request) : (s.present r q).result = s.result := rfl
@[simp] theorem present_pending (s : State) (r : Nat) (q : Request) :
    (s.present r q).pending = s.pending ++ [(r, q)] := rfl
@[simp] theorem present_resetAsserted (s : State) (r : Nat) (q : Request) :
    (s.present r q).resetAsserted = s.resetAsserted := rfl
@[simp] theorem present_grants (s : State) (r : Nat) (q : Request) : (s.present r q).grants = s.grants := rfl
@[simp] theorem present_history (s : State) (r : Nat) (q : Request) : (s.present r q).history = s.history := rfl
@[simp] theorem present_refusals (s : State) (r : Nat) (q : Request) : (s.present r q).refusals = s.refusals := rfl
@[simp] theorem present_engine (s : State) (r : Nat) (q : Request) : (s.present r q).engine = s.engine := rfl
@[simp] theorem present_line (s : State) (r : Nat) (q : Request) : (s.present r q).line = s.line := rfl

@[simp] theorem assertReset_block (s : State) : s.assertReset.block = s.block := rfl
@[simp] theorem assertReset_result (s : State) : s.assertReset.result = s.result := rfl
@[simp] theorem assertReset_pending (s : State) : s.assertReset.pending = s.pending := rfl
@[simp] theorem assertReset_resetAsserted (s : State) : s.assertReset.resetAsserted = true := rfl
@[simp] theorem assertReset_grants (s : State) : s.assertReset.grants = s.grants := rfl
@[simp] theorem assertReset_history (s : State) : s.assertReset.history = s.history := rfl
@[simp] theorem assertReset_refusals (s : State) : s.assertReset.refusals = s.refusals := rfl
@[simp] theorem assertReset_engine (s : State) : s.assertReset.engine = s.engine := rfl
@[simp] theorem assertReset_line (s : State) : s.assertReset.line = s.line := rfl

@[simp] theorem grant_block (s : State) (a : Agent) : (s.grant a).block = s.block := rfl
@[simp] theorem grant_result (s : State) (a : Agent) : (s.grant a).result = s.result := rfl
@[simp] theorem grant_pending (s : State) (a : Agent) : (s.grant a).pending = s.pending := rfl
@[simp] theorem grant_resetAsserted (s : State) (a : Agent) : (s.grant a).resetAsserted = s.resetAsserted := rfl
@[simp] theorem grant_grants (s : State) (a : Agent) : (s.grant a).grants = s.grants ++ [a] := rfl
@[simp] theorem grant_history (s : State) (a : Agent) : (s.grant a).history = s.history := rfl
@[simp] theorem grant_refusals (s : State) (a : Agent) : (s.grant a).refusals = s.refusals := rfl
@[simp] theorem grant_engine (s : State) (a : Agent) : (s.grant a).engine = s.engine := rfl
@[simp] theorem grant_line (s : State) (a : Agent) : (s.grant a).line = s.line := rfl

@[simp] theorem call_block (s : State) (k : HostCall) : (s.call k).block = s.block := rfl
@[simp] theorem call_result (s : State) (k : HostCall) : (s.call k).result = s.result := rfl
@[simp] theorem call_pending (s : State) (k : HostCall) : (s.call k).pending = s.pending := rfl
@[simp] theorem call_resetAsserted (s : State) (k : HostCall) : (s.call k).resetAsserted = s.resetAsserted := rfl
@[simp] theorem call_grants (s : State) (k : HostCall) : (s.call k).grants = s.grants := rfl
@[simp] theorem call_history (s : State) (k : HostCall) : (s.call k).history = s.history := rfl
@[simp] theorem call_refusals (s : State) (k : HostCall) : (s.call k).refusals = s.refusals := rfl
@[simp] theorem call_engine (s : State) (k : HostCall) : (s.call k).engine = s.engine.takeCall k := rfl
@[simp] theorem call_line (s : State) (k : HostCall) : (s.call k).line = s.line := rfl

@[simp] theorem callNext_block (s : State) (k : HostCall) : (s.callNext k).block = s.block := rfl
@[simp] theorem callNext_result (s : State) (k : HostCall) : (s.callNext k).result = s.result := rfl
@[simp] theorem callNext_pending (s : State) (k : HostCall) : (s.callNext k).pending = s.pending := rfl
@[simp] theorem callNext_resetAsserted (s : State) (k : HostCall) :
    (s.callNext k).resetAsserted = s.resetAsserted := rfl
@[simp] theorem callNext_grants (s : State) (k : HostCall) : (s.callNext k).grants = s.grants := rfl
@[simp] theorem callNext_history (s : State) (k : HostCall) : (s.callNext k).history = s.history := rfl
@[simp] theorem callNext_refusals (s : State) (k : HostCall) : (s.callNext k).refusals = s.refusals := rfl
@[simp] theorem callNext_engine (s : State) (k : HostCall) :
    (s.callNext k).engine = { s.engine with calls := s.engine.calls ++ [k] } := rfl
@[simp] theorem callNext_line (s : State) (k : HostCall) : (s.callNext k).line = s.line := rfl

@[simp] theorem answerOpen_block (s : State) (a : IoAnswer) : (s.answerOpen a).block = s.block := rfl
@[simp] theorem answerOpen_result (s : State) (a : IoAnswer) : (s.answerOpen a).result = s.result := rfl
@[simp] theorem answerOpen_pending (s : State) (a : IoAnswer) : (s.answerOpen a).pending = s.pending := rfl
@[simp] theorem answerOpen_resetAsserted (s : State) (a : IoAnswer) :
    (s.answerOpen a).resetAsserted = s.resetAsserted := rfl
@[simp] theorem answerOpen_grants (s : State) (a : IoAnswer) : (s.answerOpen a).grants = s.grants := rfl
@[simp] theorem answerOpen_history (s : State) (a : IoAnswer) : (s.answerOpen a).history = s.history := rfl
@[simp] theorem answerOpen_refusals (s : State) (a : IoAnswer) : (s.answerOpen a).refusals = s.refusals := rfl
@[simp] theorem answerOpen_engine (s : State) (a : IoAnswer) : (s.answerOpen a).engine = s.engine := rfl
@[simp] theorem answerOpen_line (s : State) (a : IoAnswer) :
    (s.answerOpen a).line = { s.line with opens := s.line.opens ++ [a] } := rfl

@[simp] theorem answerWrite_block (s : State) (a : IoAnswer) : (s.answerWrite a).block = s.block := rfl
@[simp] theorem answerWrite_result (s : State) (a : IoAnswer) : (s.answerWrite a).result = s.result := rfl
@[simp] theorem answerWrite_pending (s : State) (a : IoAnswer) : (s.answerWrite a).pending = s.pending := rfl
@[simp] theorem answerWrite_resetAsserted (s : State) (a : IoAnswer) :
    (s.answerWrite a).resetAsserted = s.resetAsserted := rfl
@[simp] theorem answerWrite_grants (s : State) (a : IoAnswer) : (s.answerWrite a).grants = s.grants := rfl
@[simp] theorem answerWrite_history (s : State) (a : IoAnswer) : (s.answerWrite a).history = s.history := rfl
@[simp] theorem answerWrite_refusals (s : State) (a : IoAnswer) : (s.answerWrite a).refusals = s.refusals := rfl
@[simp] theorem answerWrite_engine (s : State) (a : IoAnswer) : (s.answerWrite a).engine = s.engine := rfl
@[simp] theorem answerWrite_line (s : State) (a : IoAnswer) :
    (s.answerWrite a).line = { s.line with writes := s.line.writes ++ [a] } := rfl

@[simp] theorem yieldRead_block (s : State) (x : ReadItem) : (s.yieldRead x).block = s.block := rfl
@[simp] theorem yieldRead_result (s : State) (x : ReadItem) : (s.yieldRead x).result = s.result := rfl
@[simp] theorem yieldRead_pending (s : State) (x : ReadItem) : (s.yieldRead x).pending = s.pending := rfl
@[simp] theorem yieldRead_resetAsserted (s : State) (x : ReadItem) :
    (s.yieldRead x).resetAsserted = s.resetAsserted := rfl
@[simp] theorem yieldRead_grants (s : State) (x : ReadItem) : (s.yieldRead x).grants = s.grants := rfl
@[simp] theorem yieldRead_history (s : State) (x : ReadItem) : (s.yieldRead x).history = s.history := rfl
@[simp] theorem yieldRead_refusals (s : State) (x : ReadItem) : (s.yieldRead x).refusals = s.refusals := rfl
@[simp] theorem yieldRead_engine (s : State) (x : ReadItem) : (s.yieldRead x).engine = s.engine := rfl
@[simp] theorem yieldRead_line (s : State) (x : ReadItem) :
    (s.yieldRead x).line = { s.line with rx := s.line.rx ++ [x] } := rfl

@[simp] theorem counter_eq (s : State) : s.counter = s.block.c := rfl

end Sys2Proof.Machine
end

