-- ==== Sys2Proof/Laws/Session.lean ====
section
/-! SUPPORT. What each shared operation of the Session Engine can do, said once: the fields it leaves alone, and the
cases of its outcome. -/

namespace Sys2Proof.Machine

/-- Spending an attempt touches only where the call stands and the answers. -/
@[simp] theorem spendAttempt_frame (s : State) (w : Waiting) :
    (s.spendAttempt w).block = s.block ∧ (s.spendAttempt w).result = s.result ∧
    (s.spendAttempt w).pending = s.pending ∧ (s.spendAttempt w).resetAsserted = s.resetAsserted ∧
    (s.spendAttempt w).grants = s.grants ∧ (s.spendAttempt w).history = s.history ∧ (s.spendAttempt w).refusals = s.refusals ∧
    (s.spendAttempt w).line = s.line ∧ (s.spendAttempt w).engine.calls = s.engine.calls ∧
    (s.spendAttempt w).engine.overlapping = s.engine.overlapping ∧
    (s.spendAttempt w).engine.maxRetries = s.engine.maxRetries ∧
    (s.spendAttempt w).engine.retryDelay = s.engine.retryDelay ∧
    (s.spendAttempt w).engine.readTimeout = s.engine.readTimeout := by
  unfold State.spendAttempt; split <;> simp

/-- Likewise branch a. -/
@[simp] theorem noUsableFrame_frame (s : State) :
    (s.noUsableFrame).block = s.block ∧ (s.noUsableFrame).result = s.result ∧
    (s.noUsableFrame).pending = s.pending ∧ (s.noUsableFrame).resetAsserted = s.resetAsserted ∧
    (s.noUsableFrame).grants = s.grants ∧ (s.noUsableFrame).history = s.history ∧ (s.noUsableFrame).refusals = s.refusals ∧ (s.noUsableFrame).line = s.line ∧
    (s.noUsableFrame).engine.calls = s.engine.calls ∧
    (s.noUsableFrame).engine.overlapping = s.engine.overlapping ∧ (s.noUsableFrame).engine.maxRetries = s.engine.maxRetries ∧
    (s.noUsableFrame).engine.retryDelay = s.engine.retryDelay ∧
    (s.noUsableFrame).engine.readTimeout = s.engine.readTimeout := by
  unfold State.noUsableFrame; split <;> simp

/-- Likewise branches b to e. -/
@[simp] theorem judgePacket_frame (s : State) (w : Waiting) (p : Packet) :
    (s.judgePacket w p).block = s.block ∧ (s.judgePacket w p).result = s.result ∧
    (s.judgePacket w p).pending = s.pending ∧ (s.judgePacket w p).resetAsserted = s.resetAsserted ∧
    (s.judgePacket w p).grants = s.grants ∧ (s.judgePacket w p).history = s.history ∧ (s.judgePacket w p).refusals = s.refusals ∧
    (s.judgePacket w p).line = s.line ∧ (s.judgePacket w p).engine.calls = s.engine.calls ∧
    (s.judgePacket w p).engine.overlapping = s.engine.overlapping ∧
    (s.judgePacket w p).engine.maxRetries = s.engine.maxRetries ∧
    (s.judgePacket w p).engine.retryDelay = s.engine.retryDelay ∧
    (s.judgePacket w p).engine.readTimeout = s.engine.readTimeout := by
  unfold State.judgePacket; split <;> (try split) <;> simp

/-- Likewise handing the engine a packet. -/
@[simp] theorem hostReceives_frame (s : State) (p : Packet) :
    (s.hostReceives p).block = s.block ∧ (s.hostReceives p).result = s.result ∧
    (s.hostReceives p).pending = s.pending ∧ (s.hostReceives p).resetAsserted = s.resetAsserted ∧
    (s.hostReceives p).grants = s.grants ∧ (s.hostReceives p).history = s.history ∧ (s.hostReceives p).refusals = s.refusals ∧
    (s.hostReceives p).line = s.line ∧ (s.hostReceives p).engine.calls = s.engine.calls ∧
    (s.hostReceives p).engine.overlapping = s.engine.overlapping ∧
    (s.hostReceives p).engine.maxRetries = s.engine.maxRetries ∧
    (s.hostReceives p).engine.retryDelay = s.engine.retryDelay ∧
    (s.hostReceives p).engine.readTimeout = s.engine.readTimeout := by
  unfold State.hostReceives; split <;> simp

/-- A received frame touches, besides, the result ports. -/
@[simp] theorem receiveFrame_frame (s : State) (p : Packet) :
    (s.receiveFrame p).block = s.block ∧ (s.receiveFrame p).pending = s.pending ∧
    (s.receiveFrame p).resetAsserted = s.resetAsserted ∧ (s.receiveFrame p).grants = s.grants ∧
    (s.receiveFrame p).history = s.history ∧ (s.receiveFrame p).refusals = s.refusals ∧ (s.receiveFrame p).line = s.line ∧
    (s.receiveFrame p).engine.calls = s.engine.calls ∧
    (s.receiveFrame p).engine.overlapping = s.engine.overlapping ∧ (s.receiveFrame p).engine.maxRetries = s.engine.maxRetries ∧
    (s.receiveFrame p).engine.retryDelay = s.engine.retryDelay ∧
    (s.receiveFrame p).engine.readTimeout = s.engine.readTimeout := by
  simp [State.receiveFrame]

@[simp] theorem receiveFrame_result (s : State) (p : Packet) : (s.receiveFrame p).result = .decoded (.ok p) := by
  simp [State.receiveFrame]

/-- The write touches, besides, the transport. -/
@[simp] theorem transmit_frame (s : State) (seq : Byte) (F : Bytes) (wait : Bool) :
    (s.transmit seq F wait).block = s.block ∧ (s.transmit seq F wait).result = s.result ∧
    (s.transmit seq F wait).pending = s.pending ∧ (s.transmit seq F wait).resetAsserted = s.resetAsserted ∧
    (s.transmit seq F wait).grants = s.grants ∧ (s.transmit seq F wait).history = s.history ∧ (s.transmit seq F wait).refusals = s.refusals ∧
    (s.transmit seq F wait).engine.calls = s.engine.calls ∧
    (s.transmit seq F wait).engine.overlapping = s.engine.overlapping ∧
    (s.transmit seq F wait).engine.maxRetries = s.engine.maxRetries ∧
    (s.transmit seq F wait).engine.retryDelay = s.engine.retryDelay ∧
    (s.transmit seq F wait).engine.readTimeout = s.engine.readTimeout := by
  unfold State.transmit; split <;> (try split) <;> (try split) <;> simp

/-- `connect` touches the transport and the answers. -/
@[simp] theorem connect_frame (s : State) :
    s.connect.block = s.block ∧ s.connect.result = s.result ∧ s.connect.pending = s.pending ∧
    s.connect.resetAsserted = s.resetAsserted ∧ s.connect.grants = s.grants ∧ s.connect.history = s.history ∧
    s.connect.refusals = s.refusals ∧ s.connect.engine.phase = .idle ∧ s.connect.engine.calls = s.engine.calls ∧
    s.connect.engine.overlapping = s.engine.overlapping ∧ s.connect.engine.maxRetries = s.engine.maxRetries ∧
    s.connect.engine.retryDelay = s.engine.retryDelay ∧ s.connect.engine.readTimeout = s.engine.readTimeout ∧
    s.connect.line.tx = s.line.tx := by
  unfold State.connect; split <;> simp

/-- Beginning a call touches, besides, the transport. -/
@[simp] theorem beginCall_frame (s : State) (k : HostCall) :
    (s.beginCall k).block = s.block ∧ (s.beginCall k).result = s.result ∧ (s.beginCall k).pending = s.pending ∧
    (s.beginCall k).resetAsserted = s.resetAsserted ∧ (s.beginCall k).grants = s.grants ∧
    (s.beginCall k).history = s.history ∧ (s.beginCall k).refusals = s.refusals ∧ (s.beginCall k).engine.calls = s.engine.calls ∧
    (s.beginCall k).engine.overlapping = s.engine.overlapping ∧
    (s.beginCall k).engine.maxRetries = s.engine.maxRetries ∧
    (s.beginCall k).engine.retryDelay = s.engine.retryDelay ∧
    (s.beginCall k).engine.readTimeout = s.engine.readTimeout := by
  unfold State.beginCall; split <;> (try split) <;> simp

/-- Taking a result touches only where the call stands and the answers. -/
@[simp] theorem continueCall_frame (s : State) :
    (s.continueCall).block = s.block ∧ (s.continueCall).result = s.result ∧ (s.continueCall).pending = s.pending ∧
    (s.continueCall).resetAsserted = s.resetAsserted ∧ (s.continueCall).grants = s.grants ∧
    (s.continueCall).history = s.history ∧ (s.continueCall).refusals = s.refusals ∧ (s.continueCall).line = s.line ∧
    (s.continueCall).engine.calls = s.engine.calls ∧
    (s.continueCall).engine.overlapping = s.engine.overlapping ∧ (s.continueCall).engine.maxRetries = s.engine.maxRetries ∧
    (s.continueCall).engine.retryDelay = s.engine.retryDelay ∧
    (s.continueCall).engine.readTimeout = s.engine.readTimeout := by
  unfold State.continueCall; split <;> simp

/-- One attempt is spent: either the call ends with `ResponseTimeout`, or it goes on with one attempt less. -/
theorem spendAttempt_cases (s : State) (w : Waiting) :
    (w.attempts ≤ 1 ∧
      s.spendAttempt w = s.finishCall (.failed (.responseTimeout w.notify s.engine.maxRetries))) ∨
    (2 ≤ w.attempts ∧
      s.spendAttempt w = s.setPhase (.receiving { w with
        attempts := w.attempts - 1, waited := w.waited + (s.engine.readTimeout + s.engine.retryDelay) })) := by
  unfold State.spendAttempt
  split
  · exact .inl ⟨by assumption, rfl⟩
  · exact .inr ⟨by omega, rfl⟩

/-- A received packet in the retry loop: an attempt is spent, with or without a notification counted, or the call
ends with its answer or with a protocol violation. -/
theorem judgePacket_cases (s : State) (w : Waiting) (p : Packet) :
    (p.sequence ≠ w.expected ∧ s.judgePacket w p = s.spendAttempt w) ∨
    (p.sequence = w.expected ∧ p.type = .notify ∧ s.judgePacket w p = s.spendAttempt { w with notify := w.notify + 1 }) ∨
    (p.sequence = w.expected ∧ p.type = .data ∧ s.judgePacket w p = s.finishCall (.packet p)) ∨
    (p.sequence = w.expected ∧ p.type = .request ∧ s.judgePacket w p = s.finishCall (.failed .protocolViolation)) := by
  unfold State.judgePacket
  split
  · exact .inl ⟨by assumption, rfl⟩
  · rename_i h
    rw [not_not] at h
    cases ht : p.type <;> simp_all

theorem noUsableFrame_receiving {s : State} {w : Waiting} (h : s.engine.phase = .receiving w) :
    s.noUsableFrame = s.spendAttempt w := by
  simp [State.noUsableFrame, h]

theorem hostReceives_receiving {s : State} {w : Waiting} (h : s.engine.phase = .receiving w) (p : Packet) :
    s.hostReceives p = s.judgePacket w p := by
  simp [State.hostReceives, h]

/-- Outside the retry loop a received packet changes nothing of the engine. -/
theorem hostReceives_other {s : State} (h : ∀ w, s.engine.phase ≠ .receiving w) (p : Packet) :
    s.hostReceives p = s := by
  unfold State.hostReceives
  split
  · rename_i w hw; exact absurd hw (h w)
  all_goals rfl

/-- The three frame rows are one operation on their packet. -/
theorem exec_frameInstr (p : Packet) (s : State) : exec (frameInstr p) s = .next (s.receiveFrame p) := by
  obtain ⟨t, q, b⟩ := p
  cases t <;> rfl

/-- `ENCODE` of a well-formed packet. -/
theorem execEncode_wire (t : PacketType) (sequence : Byte) (payload : Bytes) (s : State)
    (h : payload.length ≤ 65535) :
    execEncode (wire t) sequence payload s = .next (s.setResult (.frame (encodeFrame ⟨t, sequence, payload⟩))) := by
  cases t <;> simp [execEncode, wire, unwire, h]

/-- `ENCODE` either returns the frame of a well-formed packet or is refused. -/
theorem execEncode_cases (type sequence : Byte) (payload : Bytes) (s : State) :
    (∃ t : PacketType, type = wire t ∧ payload.length ≤ 65535 ∧ execEncode type sequence payload s =
      .next (s.setResult (.frame (encodeFrame ⟨t, sequence, payload⟩)))) ∨
    ((unwire type = none ∨ 65535 < payload.length) ∧
      execEncode type sequence payload s = .refused .illFormedPacket) := by
  unfold execEncode
  cases h : unwire type with
  | none => exact .inr ⟨.inl rfl, rfl⟩
  | some t =>
    by_cases hl : payload.length ≤ 65535
    · have ht := h
      rw [unwire_eq_some_iff] at ht
      exact .inl ⟨t, ht, hl, by simp [hl]⟩
    · exact .inr ⟨.inr (by omega), by simp [hl]⟩

/-- `DECODE` puts its judgement of the buffer on the result ports, and does nothing else. -/
theorem execDecode_eq (buffer : Bytes) (s : State) :
    execDecode buffer s = .next (s.setResult (.decoded (decodeFrame buffer))) := by
  unfold execDecode
  cases decodeFrame buffer <;> rfl

end Sys2Proof.Machine
end

