-- ==== Sys2Proof/Laws/Step.lean ====
section
/-! SUPPORT. What a meaning and a step can do, said once, so that no proof unfolds the step function again. -/

namespace Sys2Proof.Machine

/-- Every way an instruction can answer a next state: it puts its result on the result ports; the two writers of the
counter set it; a frame is also handed to the Session Engine. -/
theorem exec_next_cases {i : Instr} {s t : State} (h : exec i s = .next t) :
    (∃ ty q payload, i = .encode (wire ty) q payload ∧ payload.length ≤ 65535 ∧
      t = s.setResult (.frame (encodeFrame ⟨ty, q, payload⟩))) ∨
    (∃ B, i = .decode B ∧ t = s.setResult (.decoded (decodeFrame B))) ∨
    (i = .seqNext ∧ t = (s.setCounter (nextIdentifier s.block.c)).setResult (.value s.block.c)) ∨
    (i = .seqReset ∧ t = (s.setCounter 0).setResult .noResult) ∨
    (i = .seqCurrent ∧ t = s.setResult (.value s.block.c)) ∨
    (∃ p, i = frameInstr p ∧ t = s.receiveFrame p) := by
  cases i with
  | encode type q payload =>
    obtain ⟨ty, rfl, hl, he⟩ | ⟨-, he⟩ := execEncode_cases type q payload s
    · rw [exec, he] at h
      cases h
      exact .inl ⟨ty, q, payload, rfl, hl, rfl⟩
    · rw [exec, he] at h
      cases h
  | decode B =>
    rw [exec, execDecode_eq] at h
    cases h
    exact .inr (.inl ⟨B, rfl, rfl⟩)
  | seqNext => cases h; exact .inr (.inr (.inl ⟨rfl, rfl⟩))
  | seqReset => cases h; exact .inr (.inr (.inr (.inl ⟨rfl, rfl⟩)))
  | seqCurrent => cases h; exact .inr (.inr (.inr (.inr (.inl ⟨rfl, rfl⟩))))
  | frameRequest q payload => cases h; exact .inr (.inr (.inr (.inr (.inr ⟨⟨.request, q, payload⟩, rfl, rfl⟩))))
  | frameNotify q payload => cases h; exact .inr (.inr (.inr (.inr (.inr ⟨⟨.notify, q, payload⟩, rfl, rfl⟩))))
  | frameData q payload => cases h; exact .inr (.inr (.inr (.inr (.inr ⟨⟨.data, q, payload⟩, rfl, rfl⟩))))

/-- The one refusal a meaning has (R92). -/
theorem exec_refused_cases {i : Instr} {s : State} {r : Refusal} (h : exec i s = .refused r) :
    r = .illFormedPacket ∧ ∃ type q payload, i = .encode type q payload ∧
      (unwire type = none ∨ 65535 < payload.length) := by
  cases i with
  | encode type q payload =>
    obtain ⟨ty, rfl, hl, he⟩ | ⟨hb, he⟩ := execEncode_cases type q payload s
    · rw [exec, he] at h
      cases h
    · rw [exec, he] at h
      cases h
      exact ⟨rfl, type, q, payload, rfl, hb⟩
  | decode B => rw [exec, execDecode_eq] at h; cases h
  | seqNext => cases h
  | seqReset => cases h
  | seqCurrent => cases h
  | frameRequest q payload => cases h
  | frameNotify q payload => cases h
  | frameData q payload => cases h

/-- Nothing outside the block, the result ports and the call in progress is touched by a meaning. -/
theorem exec_frame {i : Instr} {s t : State} (h : exec i s = .next t) :
    t.pending = s.pending ∧ t.resetAsserted = s.resetAsserted ∧ t.grants = s.grants ∧ t.history = s.history ∧
      t.refusals = s.refusals ∧ t.line = s.line ∧ t.engine.overlapping = s.engine.overlapping := by
  obtain ⟨_, _, _, -, -, rfl⟩ | ⟨_, -, rfl⟩ | ⟨-, rfl⟩ | ⟨-, rfl⟩ | ⟨-, rfl⟩ | ⟨p, -, rfl⟩ := exec_next_cases h <;>
    simp

/-- A well-formed instruction answers a next state from every state. -/
theorem exec_wellFormed {i : Instr} (h : i.wellFormed = true) (s : State) : ∃ t, exec i s = .next t := by
  cases hx : exec i s with
  | next t => exact ⟨t, rfl⟩
  | fault f => cases f
  | refused r =>
    obtain ⟨-, type, q, payload, rfl, hb⟩ := exec_refused_cases hx
    simp only [Instr.wellFormed, payloadFits, Bool.and_eq_true, List.contains_iff_mem, decide_eq_true_eq,
      Config.payloadMax] at h
    rcases hb with hb | hb
    · exact absurd h.1 (unwire_eq_none_iff.1 hb)
    · omega

/-- A requester's oldest transaction, and what stands around it. -/
theorem takePending_eq_some {r : Nat} {l rest : List (Nat × Request)} {q : Request}
    (h : takePending r l = some (q, rest)) :
    ∃ before after, l = before ++ (r, q) :: after ∧ (∀ x ∈ before, x.1 ≠ r) ∧ rest = before ++ after := by
  induction l generalizing rest with
  | nil => simp [takePending] at h
  | cons x l ih =>
    obtain ⟨r', q'⟩ := x
    unfold takePending at h
    split at h
    · rename_i hr
      cases h
      exact ⟨[], l, by simp [hr], by simp, rfl⟩
    · rename_i hr
      split at h
      · cases h
      · rename_i q'' rest' h'
        cases h
        obtain ⟨before, after, rfl, hb, rfl⟩ := ih h'
        exact ⟨(r', q') :: before, after, rfl, by simpa [hr] using hb, rfl⟩

/-- Taking a requester's oldest transaction. -/
theorem takePending_split {r : Nat} {q : Request} {before after : List (Nat × Request)}
    (h : ∀ x ∈ before, x.1 ≠ r) : takePending r (before ++ (r, q) :: after) = some (q, before ++ after) := by
  induction before with
  | nil => simp [takePending]
  | cons x before ih =>
    obtain ⟨r', q'⟩ := x
    have hr : r' ≠ r := h (r', q') (by simp)
    have ih' := ih (fun y hy => h y (by simp [hy]))
    simp [takePending, hr, ih']

theorem takePending_eq_none {r : Nat} {l : List (Nat × Request)} (h : takePending r l = none) :
    ∀ x ∈ l, x.1 ≠ r := by
  induction l with
  | nil => simp
  | cons x l ih =>
    obtain ⟨r', q'⟩ := x
    unfold takePending at h
    split at h
    · cases h
    · rename_i hr
      split at h
      · rename_i h'
        simpa [hr] using ih h'
      · cases h

/-- Who acts has something to do. -/
theorem arbitrate_ready {s : State} {a : Agent} (h : s.arbitrate = some a) : s.ready a = true := by
  have hd : s.defaultAgent = some a → s.ready a = true := by
    unfold State.defaultAgent
    split
    · rintro ⟨⟩; simpa [State.ready]
    · split
      · rename_i hp; rintro ⟨⟩; simp [State.ready, hp]
      · split
        · rintro ⟨⟩; simpa [State.ready]
        · rintro ⟨⟩
  unfold State.arbitrate at h
  split at h
  · split at h
    · cases h; assumption
    · exact hd h
  · exact hd h

/-- When nobody but the engine has anything to do and the engine has, it acts. -/
theorem arbitrate_engineAlone {s : State} (h : s.engineAlone) (hb : s.engineBusy = true) :
    s.arbitrate = some .engine := by
  obtain ⟨hp, hr, -⟩ := h
  have hd : s.defaultAgent = some .engine := by simp [State.defaultAgent, hr, hp, hb]
  unfold State.arbitrate
  split
  · rename_i g _ _
    split
    · rename_i hg
      cases g with
      | requester r => simp [State.ready, hp] at hg
      | resetLine => simp [State.ready, hr] at hg
      | engine => rfl
    · exact hd
  · exact hd

/-- Every way a step can answer a next state: nothing to do; an agent's own work; or one transaction served and
completed. -/
theorem step_next_cases {s t : State} (h : step s = .next t) :
    (s.fetch = .idle ∧ t = s) ∨ s.fetch = .internal t ∨
    ∃ a i u v, s.fetch = .instruction a i u ∧ exec i u = .next v ∧ t = v.complete a i := by
  unfold step at h
  split at h
  · rename_i hf; cases h; exact .inl ⟨hf, rfl⟩
  · rename_i hf; cases h; exact .inr (.inl hf)
  · cases h
  · rename_i a i u hf
    split at h
    · rename_i v hv; cases h; exact .inr (.inr ⟨a, i, u, v, hf, hv, rfl⟩)
    · cases h
    · cases h

/-- The step when an agent's turn is known. -/
theorem fetch_of_arbitrate {s : State} {a : Agent} (h : s.arbitrate = some a) : s.fetch = s.popGrant.fetchFor a := by
  simp [State.fetch, h]

/-- The engine's turn when no concurrent call is to be refused. -/
theorem fetch_of_engineMoves {s : State} (h : s.engineMoves) : s.fetch = s.popGrant.fetchMove := by
  rw [fetch_of_arbitrate h.1, State.fetchFor, State.fetchEngine, popGrant_engine, h.2]

/-- A step that is a move of the engine's own. -/
theorem step_of_internal {s t : State} (h : s.fetch = .internal t) : step s = .next t := by
  rw [step, h]

/-- A step that serves a transaction. -/
theorem step_of_instruction {s u v : State} {a : Agent} {i : Instr} (h : s.fetch = .instruction a i u)
    (hx : exec i u = .next v) : step s = .next (v.complete a i) := by
  rw [step, h]; simp only [hx]

/-- Every way a step can be refused: a concurrent call; a reserved operation code; or an ill-formed `ENCODE`, of a
requester or of the engine's own call. -/
theorem step_refused_cases {s : State} {e : Refusal} (h : step s = .refused e) :
    (s.arbitrate = some .engine ∧ s.engine.overlapping ≠ [] ∧ e = .concurrentCall) ∨
    (s.engineMoves ∧ e = .illFormedPacket) ∨
    ∃ r q rest, s.arbitrate = some (.requester r) ∧ takePending r s.pending = some (q, rest) := by
  have hf : s.fetch = .reject e ∨ ∃ a i u, s.fetch = .instruction a i u ∧ exec i u = .refused e := by
    unfold step at h
    split at h
    · cases h
    · cases h
    · rename_i hf; cases h; exact .inl hf
    · rename_i a i u hf
      split at h
      · cases h
      · cases h
      · rename_i hx; cases h; exact .inr ⟨a, i, u, hf, hx⟩
  cases ha : s.arbitrate with
  | none => simp [State.fetch, ha] at hf
  | some a =>
    rw [fetch_of_arbitrate ha] at hf
    cases a with
    | resetLine => simp [State.fetchFor] at hf
    | requester r =>
      cases ht : takePending r s.pending with
      | none => simp [State.fetchFor, State.fetchRequester, ht] at hf
      | some x => exact .inr (.inr ⟨r, x.1, x.2, rfl, ht⟩)
    | engine =>
      simp only [State.fetchFor, State.fetchEngine, popGrant_engine] at hf
      cases ho : s.engine.overlapping with
      | cons k ks =>
        rw [ho] at hf
        refine .inl ⟨rfl, by simp, ?_⟩
        simpa [eq_comm] using hf
      | nil =>
        simp only [ho] at hf
        refine .inr (.inl ⟨⟨ha, ho⟩, ?_⟩)
        obtain hf | ⟨a, i, u, -, hx⟩ := hf
        · exfalso
          revert hf
          unfold State.fetchMove State.fetchFrame
          repeat' split
          all_goals simp
        · exact (exec_refused_cases hx).1

/-- An agent's own work: the RESET event, or a move of the Session Engine that touches neither the block, nor the
command interface, nor the order. -/
theorem fetch_internal_cases {s t : State} (h : s.fetch = .internal t) :
    (s.arbitrate = some .resetLine ∧ t = s.popGrant.applyReset) ∨
    (s.arbitrate = some .engine ∧ t.block = s.block ∧ t.result = s.result ∧ t.pending = s.pending ∧
      t.resetAsserted = s.resetAsserted ∧ t.history = s.history ∧ t.refusals = s.refusals ∧
      t.engine.overlapping = s.engine.overlapping) := by
  unfold State.fetch at h
  split at h
  · cases h
  rename_i a ha
  cases a with
  | resetLine => cases h; exact .inl ⟨ha, rfl⟩
  | requester r =>
    simp only [State.fetchFor, State.fetchRequester] at h
    split at h
    · cases h
    · split at h <;> cases h
  | engine =>
    refine .inr ⟨ha, ?_⟩
    simp only [State.fetchFor, State.fetchEngine, State.fetchMove] at h
    split at h
    case h_2 => cases h
    split at h
    · split at h
      · cases h
      · cases h; simp
    · cases h
    · cases h
    · cases h; simp
    · simp only [State.fetchFrame] at h
      split at h
      · cases h; simp
      · cases h; simp
      · cases h; simp
      · split at h <;> cases h

/-- A transaction that is fetched: a requester's oldest, taken from the queue; or one of the Session Engine's, for
which at most a read item is taken from the transport. -/
theorem fetch_instruction_cases {s u : State} {a : Agent} {i : Instr} (h : s.fetch = .instruction a i u) :
    (∃ r q before after, a = .requester r ∧ s.arbitrate = some (.requester r) ∧ decodeRequest q = .ok i ∧
      s.pending = before ++ (r, q) :: after ∧ (∀ x ∈ before, x.1 ≠ r) ∧
      u = { s.popGrant with pending := before ++ after }) ∨
    (a = .engine ∧ s.arbitrate = some .engine ∧ ∃ rx, u = s.popGrant.setRx rx) := by
  unfold State.fetch at h
  split at h
  · cases h
  rename_i b hb
  cases b with
  | resetLine => cases h
  | requester r =>
    simp only [State.fetchFor, State.fetchRequester] at h
    split at h
    · cases h
    · rename_i q rest ht
      split at h
      · rename_i hd
        cases h
        obtain ⟨before, after, hp, hx, rfl⟩ := takePending_eq_some ht
        exact .inl ⟨r, q, before, after, rfl, hb, hd, hp, hx, rfl⟩
      · cases h
  | engine =>
    simp only [State.fetchFor, State.fetchEngine, State.fetchMove] at h
    split at h
    case h_2 => cases h
    split at h
    · split at h <;> cases h
    · cases h; exact .inr ⟨rfl, hb, s.line.rx, rfl⟩
    · cases h; exact .inr ⟨rfl, hb, s.line.rx, rfl⟩
    · cases h
    · simp only [State.fetchFrame] at h
      split at h
      · cases h
      · cases h
      · cases h
      · rename_i rest _
        split at h <;> cases h <;> exact .inr ⟨rfl, hb, rest, rfl⟩

/-- Completing a transaction records it, and touches nothing else but the Session Engine. -/
@[simp] theorem complete_frame (s : State) (a : Agent) (i : Instr) :
    (s.complete a i).block = s.block ∧ (s.complete a i).result = s.result ∧ (s.complete a i).pending = s.pending ∧
      (s.complete a i).resetAsserted = s.resetAsserted ∧ (s.complete a i).grants = s.grants ∧
      (s.complete a i).history = s.history ++ [.served a i s.result] ∧
      (s.complete a i).refusals = s.refusals ∧ (s.complete a i).engine.overlapping = s.engine.overlapping ∧
      (s.complete a i).line = s.line := by
  cases a <;> simp [State.complete]

/-- A run of one step more. -/
theorem run_succ {s t : State} (h : step s = .next t) (k : Nat) :
    Host.Core.run core (k + 1) s = Host.Core.run core k t := by
  have : core.step s = .next t := h
  simp only [Host.Core.run, this]

end Sys2Proof.Machine
end

