-- ==== Sys2Proof/Tests/Slice0.lean ====
section
/-! SUPPORT. The model's own tests, each about one decoding or one step; the expected results are the vectors of
95_test_vectors.md (K, F, Q, W, S, H, P) or are worked out from the rule named. Then, for every obligation with
hypotheses, a witness that meets them, clause by clause. -/

namespace Sys2Proof.Tests

open Sys2Proof.Machine

/-! ### Helpers -/

/-- The next state of an outcome, if it is one. -/
def answer : Host.Outcome State Fault Refusal → Option State
  | .next t => some t
  | .fault _ => none
  | .refused _ => none

/-- The next state of an outcome, or the state given instead. -/
def after (s : State) (o : Host.Outcome State Fault Refusal) : State := (answer o).getD s

/-- The refusal of an outcome, if it is one. -/
def refusal : Host.Outcome State Fault Refusal → Option Refusal
  | .next _ => none
  | .fault _ => none
  | .refused r => some r

/-- The result and the counter an instruction leaves when the counter is `c`. -/
def serve (i : Instr) (c : Byte) : Option (Result × Byte) :=
  (answer (exec i { State.reset with block := ⟨c⟩ })).map (fun t => (t.result, t.block.c))

/-- The engine at a stage of a call, with a transport held and a budget of 5 attempts. -/
def engineAt (p : Phase) (rx : List ReadItem) : State :=
  { State.reset with
    line := { Line.reset with isOpen := true, rx := rx }
    engine := { Engine.reset with phase := p, maxRetries := 5 } }

/-- The engine in its retry loop, expecting sequence 3. -/
def inLoop (attempts : Nat) (rx : List ReadItem) : State := engineAt (.receiving ⟨3, attempts, 0, 0⟩) rx

/-- The engine with one call to begin. -/
def calling (k : HostCall) : State := { State.reset with engine := { Engine.reset with calls := [k] } }

/-- A call of a `send_command` in its retry loop, and another made meanwhile (R162). -/
def concurrent : State := (inLoop 5 [.silence]).call (.sendCommand [] true)

/-- The engine about to encode a payload of the given bytes. -/
def encoding (payload : Bytes) : State := engineAt (.allocated 3 payload true) []

/-- A state with these transactions waiting, each with its requester. -/
def waiting (l : List (Nat × Request)) : State := { State.reset with pending := l }

/-- A payload of one byte too many. -/
def longPayload : Bytes := List.replicate 65536 0

theorem longPayload_length : longPayload.length = 65536 := List.length_replicate

/-- The frames of vectors K1, K3 and K4, a `Request` frame of sequence 3 (H4), and the frame of K6. -/
def frameK1 : Bytes := [0x02, 0x30, 0x00, 0x00, 0x00, 0x30, 0x03]
def frameK3 : Bytes := [0x02, 0x35, 0x03, 0x03, 0x00, 0xDD, 0xEE, 0xFF, 0xF9, 0x03]
def frameK4 : Bytes := [0x02, 0x34, 0x03, 0x00, 0x00, 0x37, 0x03]
def frameH4 : Bytes := [0x02, 0x30, 0x03, 0x01, 0x00, 0x01, 0x33, 0x03]
def frameK6 : Bytes := [0x02, 0x35, 0x63, 0x01, 0x00, 0x22, 0x75, 0x03]

/-! ### Well-formedness: an ill-formed term for each check (R12, R92) -/

theorem test_illFormed_type :
    (Instr.encode 0x31 0 []).wellFormed = false ∧ (Instr.encode 0x00 0 []).wellFormed = false := by decide

theorem test_illFormed_payload : payloadFits longPayload = false := by
  rw [payloadFits, longPayload_length]; decide

theorem test_illFormed_encodePayload : (Instr.encode 0x30 0 longPayload).wellFormed = false := by
  rw [Instr.wellFormed, test_illFormed_payload]; decide

theorem test_illFormed_framePayload :
    (Instr.frameRequest 0 longPayload).wellFormed = false ∧ (Instr.frameNotify 0 longPayload).wellFormed = false ∧
      (Instr.frameData 0 longPayload).wellFormed = false ∧ (Packet.mk .data 0 longPayload).wellFormed = false :=
  ⟨test_illFormed_payload, test_illFormed_payload, test_illFormed_payload, test_illFormed_payload⟩

/-! ### Decoding, from words written out bit by bit -/

/-- Table of R71: the five operation codes. -/
theorem test_decode_operations :
    decode (.command ⟨0b000, 0x34, 0xFF, [0x02], []⟩) = .ok (.encode 0x34 0xFF [0x02]) ∧
    decode (.command ⟨0b001, 0, 0, [], [0x09]⟩) = .ok (.decode [0x09]) ∧
    decode (.command ⟨0b010, 0, 0, [], []⟩) = .ok .seqNext ∧
    decode (.command ⟨0b011, 0, 0, [], []⟩) = .ok .seqReset ∧
    decode (.command ⟨0b100, 0, 0, [], []⟩) = .ok .seqCurrent := ⟨rfl, rfl, rfl, rfl, rfl⟩

/-- R74: the three codes that are no operation. -/
theorem test_decode_reserved :
    decode (.command ⟨0b101, 0, 0, [], []⟩) = .error (.reservedOperation 5) ∧
    decode (.command ⟨0b110, 0, 0, [], []⟩) = .error (.reservedOperation 6) ∧
    decode (.command ⟨0b111, 0, 0, [], []⟩) = .error (.reservedOperation 7) := ⟨rfl, rfl, rfl⟩

/-- R60 and R70, K7, K4 and K3: `STX TYPE SEQ LENGTH PAYLOAD CHECKSUM ETX` in bits. -/
theorem test_decode_frameRequest :
    decode (.frame [0b00000010, 0b00110000, 0b11111111, 0b00000010, 0b00000000, 0b00000010, 0b00000011, 0b11001100,
      0b00000011]) = .ok (.frameRequest 255 [2, 3]) := rfl

theorem test_decode_frameNotify :
    decode (.frame [0b00000010, 0b00110100, 0b00000011, 0b00000000, 0b00000000, 0b00110111, 0b00000011]) =
      .ok (.frameNotify 3 []) := rfl

theorem test_decode_frameData :
    decode (.frame [0b00000010, 0b00110101, 0b00000011, 0b00000011, 0b00000000, 0b11011101, 0b11101110, 0b11111111,
      0b11111001, 0b00000011]) = .ok (.frameData 3 [0xDD, 0xEE, 0xFF]) := rfl

/-- F2, F7, F9, F13, F16, F19 and Q5: buffers that are no frame, rejected by name. -/
theorem test_decode_noFrame :
    decode (.frame [0x02, 0x30, 0x00, 0x00, 0x00, 0x03]) = .error (.notAFrame .tooShort) ∧
    decode (.frame [0x03, 0x35, 0x03, 0x03, 0x00, 0xDD, 0xEE, 0xFF, 0xF9, 0x02]) = .error (.notAFrame .badFraming) ∧
    decode (.frame [0x02, 0x35, 0x03, 0x04, 0x00, 0xDD, 0xEE, 0xFF, 0xF9, 0x03]) = .error (.notAFrame .incomplete) ∧
    decode (.frame [0x02, 0x35, 0x03, 0x02, 0x00, 0xDD, 0xEE, 0xFF, 0xF9, 0x03]) = .error (.notAFrame .badFraming) ∧
    decode (.frame [0x02, 0x35, 0x03, 0x03, 0x00, 0xDD, 0xEE, 0xFF, 0xF8, 0x03]) =
      .error (.notAFrame .checksumMismatch) ∧
    decode (.frame [0x02, 0x31, 0x00, 0x00, 0x00, 0x31, 0x03]) = .error (.notAFrame .unknownType) ∧
    decode (.frame [0x02, 0x99, 0x00, 0x00, 0x00, 0x98, 0x03]) = .error (.notAFrame .checksumMismatch) :=
  ⟨rfl, rfl, rfl, rfl, rfl, rfl, rfl⟩

/-- The rows of spec/opcode_table.json, operand words zero. -/
theorem test_decodeTableWord :
    [decodeTableWord 8 0, decodeTableWord 8 1, decodeTableWord 8 2, decodeTableWord 8 3, decodeTableWord 8 4,
      decodeTableWord 8 5, decodeTableWord 16 0x0230, decodeTableWord 16 0x0234, decodeTableWord 16 0x0235,
      decodeTableWord 16 0x0236] =
    [some (.encode 0x30 0 []), some (.decode []), some .seqNext, some .seqReset, some .seqCurrent, none,
      some (.frameRequest 0 []), some (.frameNotify 0 []), some (.frameData 0 []), none] := by decide

/-- The operand bytes of a frame row: `SEQ` is bits 23 to 16, `LENGTH` the two bytes above. -/
theorem test_decodeTableWord_operands :
    decodeTableWord 40 0x0002070235 = some (.frameData 7 [0, 0]) := by decide

/-- `step` runs each row as the first instruction after reset: the result, with who it was served for. -/
theorem test_withFetchWord :
    [(8, 0), (8, 1), (8, 2), (8, 3), (8, 4), (16, 0x0230), (16, 0x0234), (16, 0x0235)].map
      (fun x => (answer (step (State.reset.withFetchWord x.1 x.2))).map State.history) =
    [some [.served (.requester 0) (.encode 0x30 0 []) (.frame frameK1)],
      some [.served (.requester 0) (.decode []) (.decoded (.fail .tooShort))],
      some [.served (.requester 0) .seqNext (.value 0)],
      some [.served (.requester 0) .seqReset .noResult],
      some [.served (.requester 0) .seqCurrent (.value 0)],
      some [.served .engine (.frameRequest 0 []) (.decoded (.ok ⟨.request, 0, []⟩))],
      some [.served .engine (.frameNotify 0 []) (.decoded (.ok ⟨.notify, 0, []⟩))],
      some [.served .engine (.frameData 0 []) (.decoded (.ok ⟨.data, 0, []⟩))]] := by decide

/-! ### The codec -/

/-- K1 and K7: the smallest frame; the greatest sequence, with both delimiters unescaped in the payload. -/
theorem test_encode_frame :
    serve (.encode 0x30 0 []) 42 = some (.frame frameK1, 42) ∧
    serve (.encode 0x30 0xFF [0x02, 0x03]) 42 =
      some (.frame [0x02, 0x30, 0xFF, 0x02, 0x00, 0x02, 0x03, 0xCC, 0x03], 42) := by decide

/-- R92: a type byte of no packet type is refused. -/
theorem test_encode_refused : refusal (exec (.encode 0x33 0 []) State.reset) = some .illFormedPacket := by decide

/-- K3 and F23. -/
theorem test_decode_packet :
    serve (.decode frameK3) 42 = some (.decoded (.ok ⟨.data, 3, [0xDD, 0xEE, 0xFF]⟩), 42) ∧
    serve (.decode [0x02, 0x35, 0x01, 0x04, 0x00, 0x03, 0x03, 0x03, 0x03, 0x30, 0x03]) 42 =
      some (.decoded (.ok ⟨.data, 1, [3, 3, 3, 3]⟩), 42) := by decide

/-- Q1 to Q4: with several causes at once the first in the order of R108 decides. -/
theorem test_decode_priority :
    [[0x09, 0x09, 0x09], [0x02, 0x35, 0x03, 0x09, 0x00, 0xDD, 0xEE, 0xFF, 0xF9, 0x00],
      [0x00, 0x35, 0x03, 0x03, 0x00, 0xDD, 0xEE, 0xFF, 0x00, 0x03],
      [0x02, 0x99, 0x00, 0x00, 0x00, 0x99, 0x00, 0x03]].map decodeFrame =
    [.fail .tooShort, .fail .badFraming, .fail .badFraming, .fail .badFraming] := by decide

/-- Table of R72: the status of each outcome. -/
theorem test_statusCode :
    [.ok ⟨.data, 0, []⟩, .fail .tooShort, .fail .badFraming, .fail .incomplete, .fail .checksumMismatch,
      .fail .unknownType].map statusCode = [0, 1, 2, 3, 4, 5] := by decide

/-- Section 2.6: the frame of a peer of the other byte order, read as `L = 768`. -/
theorem test_otherByteOrder :
    frameIn .bigEndian ⟨.data, 3, [0xDD, 0xEE, 0xFF]⟩ =
      [0x02, 0x35, 0x03, 0x00, 0x03, 0xDD, 0xEE, 0xFF, 0xF9, 0x03] ∧
    decodeFrame [0x02, 0x35, 0x03, 0x00, 0x03, 0xDD, 0xEE, 0xFF, 0xF9, 0x03] = .fail .incomplete := by decide

/-! ### The Sequence Allocator -/

/-- S7: the increment wraps from 255 to 0; S5: 3 gives 3 and leaves 4. -/
theorem test_seqNext : serve .seqNext 255 = some (.value 255, 0) ∧ serve .seqNext 3 = some (.value 3, 4) := by decide

/-- S4. -/
theorem test_seqReset : serve .seqReset 200 = some (.noResult, 0) := by decide

/-- S5. -/
theorem test_seqCurrent : serve .seqCurrent 3 = some (.value 3, 3) := by decide

/-! ### Received frames in the retry loop -/

/-- H1, third attempt: a `Data` frame of the expected sequence is the call's result. -/
theorem test_frameData : (answer (step (inLoop 3 [.buffer frameK3]))).map (fun t => (t.engine.phase, t.engine.answers)) =
    some (.idle, [.packet ⟨.data, 3, [0xDD, 0xEE, 0xFF]⟩]) := by decide

/-- H3, first attempt: a `Data` frame of another sequence costs one attempt. -/
theorem test_frameData_mismatch : (answer (step (inLoop 5 [.buffer frameK6]))).map (fun t => t.engine.phase) =
    some (.receiving ⟨3, 4, 0, 100⟩) := by decide

/-- H1, first attempt, and H2, fifth attempt: a `Notify` frame is counted; the last one ends the call. -/
theorem test_frameNotify :
    (answer (step (inLoop 5 [.buffer frameK4]))).map (fun t => t.engine.phase) = some (.receiving ⟨3, 4, 1, 100⟩) ∧
    (answer (step (engineAt (.receiving ⟨3, 1, 4, 400⟩) [.buffer frameK4]))).map (fun t => t.engine.answers) =
      some [.failed (.responseTimeout 5 5)] := by decide

/-- H4: the host's own request echoed back. -/
theorem test_frameRequest : (answer (step (inLoop 5 [.buffer frameH4]))).map (fun t => t.engine.answers) =
    some [.failed .protocolViolation] := by decide

/-- H5: a frame of unknown type is no protocol violation but costs one attempt. -/
theorem test_unknownType_costs :
    (answer (step (inLoop 5 [.buffer [0x02, 0x36, 0x03, 0x00, 0x00, 0x35, 0x03]]))).map (fun t =>
      (t.result, t.engine.phase)) = some (.decoded (.fail .unknownType), .receiving ⟨3, 4, 0, 100⟩) := by decide

/-- R141: without a held transport the call fails before any allocation; H1: the encoded request. -/
theorem test_sendCommand :
    (answer (step (calling (.sendCommand [0x01] true)))).map (fun t => (t.engine.answers, t.block.c)) =
      some ([.failed .notConnected], 0) ∧
    (answer (step (engineAt (.allocated 3 [0x01] true) []))).map (fun t => t.engine.phase) =
      some (.encoded 3 frameH4 true) := by decide

/-! ### The order of service and reset -/

/-- P3: whichever requester is granted is served first, and receives 0. -/
theorem test_grant :
    (answer (step { waiting [(0, plainRequest 2), (1, plainRequest 2)] with grants := [.requester 1] })).map (fun t =>
      (t.history, t.pending)) =
    some ([.served (.requester 1) .seqNext (.value 0)], [(0, plainRequest 2)]) := by decide

/-- R74: a transaction with a reserved code is refused, and is gone afterwards; R206: the refusal is marked. -/
theorem test_reserved :
    refusal (step (waiting [(0, plainRequest 6)])) = some (.reservedOperation 6) ∧
      (waiting [(0, plainRequest 6)]).afterRefusal =
        { State.reset with refusals := [(.requester 0, .reservedOperation 6)] } := by decide

/-- R162 and U7: a concurrent `send_command` is refused, and the running call goes on. -/
theorem test_concurrentCall :
    refusal (step concurrent) = some .concurrentCall ∧
      (answer (step concurrent.afterRefusal)).map (fun t => t.engine.phase) =
        some (.receiving ⟨3, 4, 0, 100⟩) := by decide

/-- R176: after the refused `ENCODE` of a call the engine does not present it again. -/
theorem test_refusedEncode :
    refusal (step (encoding longPayload)) = some .illFormedPacket ∧
      (encoding longPayload).afterRefusal.engine.phase = .idle ∧
      (encoding longPayload).afterRefusal.engine.answers = [.refused] ∧
      step (encoding longPayload).afterRefusal = .next (encoding longPayload).afterRefusal := by
  have h : step (encoding longPayload) = .refused .illFormedPacket := by
    have hx : exec (.encode 0x30 3 longPayload) (encoding longPayload) = .refused .illFormedPacket := by
      obtain ⟨t, -, hl, -⟩ | ⟨-, he⟩ := execEncode_cases 0x30 3 longPayload (encoding longPayload)
      · rw [longPayload_length] at hl; exact absurd hl (by decide)
      · exact he
    have hf : (encoding longPayload).fetch =
        .instruction .engine (.encode 0x30 3 longPayload) (encoding longPayload) := rfl
    rw [step, hf]; simp only [hx]
  have ha : (encoding longPayload).afterRefusal =
      (encoding longPayload).afterRefusalOf .engine .illFormedPacket := by
    unfold State.afterRefusal; rw [h]; rfl
  rw [h, ha]
  exact ⟨rfl, rfl, rfl, rfl⟩

/-- R136: one `open` fails and the next succeeds. -/
theorem test_connect_twice :
    (answer (step { (calling .connect).callNext .connect with
      line := { Line.reset with isOpen := true, opens := [.error] } })).map (fun t =>
        (t.engine.answers, t.line.isOpen, (answer (step t)).map (fun u => (u.engine.answers, u.line.isOpen)))) =
    some ([.connectFailure], false, some ([.connectFailure, .done], true)) := by decide

/-- R138 and R163: a failed read releases the transport. -/
theorem test_readError_releases : (answer (step (inLoop 5 [.readError]))).map (fun t =>
    (t.engine.answers, t.line.isOpen)) = some ([.failed .transportFailure], false) := by decide

/-- R190: RESET clears the counter, and the call in progress goes on. -/
theorem test_reset :
    (answer (step { inLoop 5 [] with block := ⟨200⟩, resetAsserted := true })).map (fun t =>
      (t.block.c, t.resetAsserted, t.history, t.engine.phase)) =
    some (0, false, [.reset], .receiving ⟨3, 5, 0, 0⟩) := by decide

/-! ### Witnesses -/

theorem witness_ResetLeavesCounterZero : State.reset.block = State.reset.block := rfl

theorem witness_ResetEventClearsOnlyCounter : State.reset.assertReset.arbitrate = some .resetLine := by decide

theorem witness_AllocatorCannotFail : Instr.seqNext = .seqNext ∧ Instr.seqReset = .seqReset ∧
    Instr.seqCurrent = .seqCurrent := ⟨rfl, rfl, rfl⟩

theorem witness_CounterArithmetic :
    (exec .seqNext { State.reset with block := ⟨254⟩ } =
      .next { State.reset with block := ⟨255⟩, result := .value 254 } ∧ (254 : Byte).toNat ≤ 254) ∧
    exec .seqNext { State.reset with block := ⟨255⟩ } =
      .next { State.reset with block := ⟨0⟩, result := .value 255 } := ⟨⟨rfl, by decide⟩, rfl⟩

/-- 257 allocations, past the wrap, with the other operations among them. -/
theorem witness_SequenceOfIdentifiers :
    State.reset.block.c = 0 ∧
      ∀ i ∈ List.replicate 257 Instr.seqNext ++ [.seqCurrent, .encode 0x30 0 [], .decode [], .frameData 0 []],
        i.wellFormed = true ∧ i ≠ .seqReset := by
  refine ⟨rfl, fun i hi => ?_⟩
  rcases List.mem_append.1 hi with h | h
  · rw [List.eq_of_mem_replicate h]; decide
  · clear hi; revert i; decide

theorem witness_IdentifiersUniqueWithinWindow :
    State.reset.block.c = 0 ∧
      (∀ i ∈ [Instr.seqNext, .decode [], .seqNext], i.wellFormed = true ∧ i ≠ .seqReset) ∧ 0 ≤ 1 ∧
      1 < [Instr.seqNext, .decode [], .seqNext].count .seqNext ∧
      [Instr.seqNext, .decode [], .seqNext].count .seqNext ≤ 256 ∧
      (List.replicate 256 Instr.seqNext).count .seqNext ≤ 256 :=
  ⟨rfl, by decide, by decide, by decide, by decide, List.count_replicate_self.le⟩

theorem witness_EncodeReturnsFrame :
    (0x34 : Byte) ∈ ([0x30, 0x34, 0x35] : Bytes) ∧ (List.replicate 65535 (0 : Byte)).length ≤ 65535 ∧
      ([] : Bytes).length ≤ 65535 := ⟨by decide, List.length_replicate.le, by decide⟩

theorem witness_EncodeRefusesIllFormed :
    (0x33 : Byte) ∉ ([0x30, 0x34, 0x35] : Bytes) ∧ 65535 < longPayload.length := ⟨by decide, longPayload_length.ge⟩

theorem witness_EncodedFrameShape :
    (0 = (Packet.mk .request 0 []).payload.length ∧ 0 ≤ 65535 ∧ frameK1 = encodeFrame ⟨.request, 0, []⟩) ∧
    65535 = (Packet.mk .request 0 (List.replicate 65535 0)).payload.length := ⟨by decide, List.length_replicate.symm⟩

theorem witness_EncodeIsInjective :
    exec (.encode 0x30 0 []) State.reset = .next { State.reset with result := .frame frameK1 } := rfl

theorem witness_SequenceFieldCopied :
    decodeFrame frameK3 = .ok ⟨.data, 3, [0xDD, 0xEE, 0xFF]⟩ ∧
    ({ (Packet.mk .data 3 [1]) with sequence := (Packet.mk .data 255 [1]).sequence } : Packet) = ⟨.data, 255, [1]⟩ ∧
    (Packet.mk .data 3 [1]).payload.length ≤ 65535 := by decide

theorem witness_DecodeTooShort : (List.replicate 6 (0x02 : Byte)).length < 7 ∧
    7 ≤ (List.replicate 7 (0x02 : Byte)).length := by decide

theorem witness_DecodeBadDelimiters :
    (7 ≤ ([0x00, 0x30, 0x00, 0x00, 0x00, 0x30, 0x03] : Bytes).length ∧
      byteAt [0x00, 0x30, 0x00, 0x00, 0x00, 0x30, 0x03] 0 ≠ 0x02) ∧
    (7 ≤ ([0x02, 0x30, 0x00, 0x00, 0x00, 0x30, 0x00] : Bytes).length ∧
      byteAt [0x02, 0x30, 0x00, 0x00, 0x00, 0x30, 0x00] 6 ≠ 0x03) := by decide

/-- F9: one byte short, for both clauses. -/
theorem witness_DecodeIncomplete :
    (7 ≤ 10 ∧ byteAt [0x02, 0x35, 0x03, 0x04, 0x00, 0xDD, 0xEE, 0xFF, 0xF9, 0x03] 0 = 0x02 ∧
      byteAt [0x02, 0x35, 0x03, 0x04, 0x00, 0xDD, 0xEE, 0xFF, 0xF9, 0x03] 9 = 0x03 ∧
      10 < 7 + ((byteAt [0x02, 0x35, 0x03, 0x04, 0x00, 0xDD, 0xEE, 0xFF, 0xF9, 0x03] 3).toNat +
        256 * (byteAt [0x02, 0x35, 0x03, 0x04, 0x00, 0xDD, 0xEE, 0xFF, 0xF9, 0x03] 4).toNat)) ∧
    exec (.decode [0x02, 0x35, 0x03, 0x04, 0x00, 0xDD, 0xEE, 0xFF, 0xF9, 0x03]) State.reset =
      .next { State.reset with result := .decoded (.fail .incomplete) } := ⟨by decide, rfl⟩

/-- F14: one byte too many. -/
theorem witness_DecodeExcessBytes :
    7 ≤ (frameK3 ++ [0x03]).length ∧ byteAt (frameK3 ++ [0x03]) 0 = 0x02 ∧
      byteAt (frameK3 ++ [0x03]) ((frameK3 ++ [0x03]).length - 1) = 0x03 ∧
      7 + ((byteAt (frameK3 ++ [0x03]) 3).toNat + 256 * (byteAt (frameK3 ++ [0x03]) 4).toNat) <
        (frameK3 ++ [0x03]).length := by decide

/-- K1 and Q5: a right and a wrong checksum. -/
theorem witness_DecodeChecksumMismatch :
    (0 = (byteAt [0x02, 0x99, 0x00, 0x00, 0x00, 0x98, 0x03] 3).toNat +
        256 * (byteAt [0x02, 0x99, 0x00, 0x00, 0x00, 0x98, 0x03] 4).toNat ∧
      ([0x02, 0x99, 0x00, 0x00, 0x00, 0x98, 0x03] : Bytes).length = 7 + 0 ∧
      byteAt [0x02, 0x99, 0x00, 0x00, 0x00, 0x98, 0x03] 0 = 0x02 ∧
      byteAt [0x02, 0x99, 0x00, 0x00, 0x00, 0x98, 0x03] (6 + 0) = 0x03 ∧
      xor8 (memRead [0x02, 0x99, 0x00, 0x00, 0x00, 0x98, 0x03] 1 (4 + 0)) ≠
        byteAt [0x02, 0x99, 0x00, 0x00, 0x00, 0x98, 0x03] (5 + 0)) ∧
    xor8 (memRead frameK1 1 (4 + 0)) = byteAt frameK1 (5 + 0) := by decide

/-- F19. -/
theorem witness_DecodeUnknownType :
    0 = (byteAt [0x02, 0x31, 0x00, 0x00, 0x00, 0x31, 0x03] 3).toNat +
        256 * (byteAt [0x02, 0x31, 0x00, 0x00, 0x00, 0x31, 0x03] 4).toNat ∧
      ([0x02, 0x31, 0x00, 0x00, 0x00, 0x31, 0x03] : Bytes).length = 7 + 0 ∧
      byteAt [0x02, 0x31, 0x00, 0x00, 0x00, 0x31, 0x03] 0 = 0x02 ∧
      byteAt [0x02, 0x31, 0x00, 0x00, 0x00, 0x31, 0x03] (6 + 0) = 0x03 ∧
      xor8 (memRead [0x02, 0x31, 0x00, 0x00, 0x00, 0x31, 0x03] 1 (4 + 0)) =
        byteAt [0x02, 0x31, 0x00, 0x00, 0x00, 0x31, 0x03] (5 + 0) ∧
      byteAt [0x02, 0x31, 0x00, 0x00, 0x00, 0x31, 0x03] 1 ∉ ([0x30, 0x34, 0x35] : Bytes) := by decide

/-- K3, for both clauses. -/
theorem witness_DecodeSucceeds :
    (3 = (byteAt frameK3 3).toNat + 256 * (byteAt frameK3 4).toNat ∧ frameK3.length = 7 + 3 ∧
      byteAt frameK3 0 = 0x02 ∧ byteAt frameK3 (6 + 3) = 0x03 ∧
      xor8 (memRead frameK3 1 (4 + 3)) = byteAt frameK3 (5 + 3) ∧
      (PacketType.data, byteAt frameK3 1) ∈
        ([(.request, 0x30), (.notify, 0x34), (.data, 0x35)] : List (PacketType × Byte))) ∧
    exec (.decode frameK3) State.reset =
      .next { State.reset with result := .decoded (.ok ⟨.data, 3, [0xDD, 0xEE, 0xFF]⟩) } := ⟨by decide, rfl⟩

theorem witness_DecodeInvertsEncode :
    ([] : Bytes).length ≤ 65535 ∧ (List.replicate 65535 (0xFF : Byte)).length ≤ 65535 :=
  ⟨by decide, List.length_replicate.le⟩

theorem witness_EncodeInvertsDecode :
    exec (.decode frameK4) State.reset = .next { State.reset with result := .decoded (.ok ⟨.notify, 3, []⟩) } := rfl

/-- K3: offsets 0, 9, 3 and 4, and one of the others; a set and a clear bit of `LENGTH`. -/
theorem witness_SingleBitFlipDetected :
    3 = (Packet.mk .data 3 [0xDD, 0xEE, 0xFF]).payload.length ∧ 3 ≤ 65535 ∧
      frameK3 = encodeFrame ⟨.data, 3, [0xDD, 0xEE, 0xFF]⟩ ∧ 0 < 7 + 3 ∧ 9 < 7 + 3 ∧ 3 < 7 + 3 ∧ 4 < 7 + 3 ∧ 8 < 7 + 3 ∧
      0 < 8 ∧ 7 < 8 ∧ (byteAt frameK3 3).getLsbD 1 = true ∧ (byteAt frameK3 3).getLsbD 2 = false := by decide

theorem witness_FramingSensitivity :
    (Packet.mk .data 3 []).wellFormed = true ∧ (0x03 : Byte) ≠ 0x02 ∧ (0x02 : Byte) ≠ 0x03 := by decide

theorem witness_LongBufferIsBadFraming : 65542 < (List.replicate 65543 (0x02 : Byte)).length :=
  List.length_replicate.ge

/-- W3. -/
theorem witness_PayloadReorderingUndetected :
    (Packet.mk .data 3 [0xDD, 0xEE, 0xFF]).payload.length ≤ 65535 ∧
      ([0xEE, 0xDD, 0xFF] : Bytes).Perm (Packet.mk .data 3 [0xDD, 0xEE, 0xFF]).payload := by decide

/-- Section 2.6: payloads of 257, 3 and 256 bytes, one for each outcome. -/
theorem witness_ByteOrderMismatch :
    (257 = (Packet.mk .data 9 (List.replicate 257 0x5A)).payload.length ∧ 257 = 256 * (257 % 256) + 257 / 256) ∧
    (3 = (Packet.mk .data 3 [1, 2, 3]).payload.length ∧ 3 < 256 * (3 % 256) + 3 / 256) ∧
    (256 = (Packet.mk .request 0x10 (List.replicate 256 0)).payload.length ∧ 256 * (256 % 256) + 256 / 256 < 256) :=
  ⟨⟨List.length_replicate.symm, by decide⟩, by decide, List.length_replicate.symm, by decide⟩

theorem witness_OnlyAllocatorWritesCounter :
    exec (.decode []) State.reset = .next { State.reset with result := .decoded (.fail .tooShort) } ∧
      Instr.decode [] ≠ .seqNext ∧ Instr.decode [] ≠ .seqReset := ⟨rfl, by decide, by decide⟩

theorem witness_CodecCommutes :
    exec (.decode []) State.reset = .next { State.reset with result := .decoded (.fail .tooShort) } ∧
    exec .seqNext { State.reset with result := .decoded (.fail .tooShort) } =
      .next { State.reset with block := ⟨1⟩, result := .value 0 } ∧
    exec .seqNext State.reset = .next { State.reset with block := ⟨1⟩, result := .value 0 } ∧
    exec (.decode []) { State.reset with block := ⟨1⟩, result := .value 0 } =
      .next { State.reset with block := ⟨1⟩, result := .decoded (.fail .tooShort) } := ⟨rfl, rfl, rfl, rfl⟩

theorem witness_NoHiddenState :
    State.reset.block = (inLoop 5 []).block ∧
      exec .seqNext State.reset = .next { State.reset with block := ⟨1⟩, result := .value 0 } ∧
      exec (.encode 0x33 0 []) State.reset = .refused .illFormedPacket := ⟨rfl, rfl, rfl⟩

theorem witness_OperationsFrame :
    exec (.encode 0x30 0 []) State.reset = .next { State.reset with result := .frame frameK1 } ∧
    exec (.decode []) State.reset = .next { State.reset with result := .decoded (.fail .tooShort) } ∧
    exec .seqNext State.reset = .next { State.reset with block := ⟨1⟩, result := .value 0 } ∧
    exec .seqReset State.reset = .next State.reset ∧
    exec .seqCurrent State.reset = .next { State.reset with result := .value 0 } := ⟨rfl, rfl, rfl, rfl, rfl⟩

theorem witness_ReceivedFramesFrame :
    Instr.frameRequest 3 [1] = frameInstr ⟨.request, 3, [1]⟩ ∧ Instr.frameNotify 3 [] = frameInstr ⟨.notify, 3, []⟩ ∧
      Instr.frameData 3 [] = frameInstr ⟨.data, 3, []⟩ := ⟨rfl, rfl, rfl⟩

theorem witness_DecodeAgreesWithEncode :
    [Instr.encode 0x35 255 [1], .decode [], .seqNext, .seqReset, .seqCurrent, .frameRequest 0 [], .frameNotify 255 [2, 3],
      .frameData 9 [0x5A]].all Instr.wellFormed = true := by decide

theorem witness_FrameWordsAreUnique :
    decode (.frame frameK3) = .ok (.frameData 3 [0xDD, 0xEE, 0xFF]) ∧
      (Instr.frameData 3 [0xDD, 0xEE, 0xFF]).wellFormed = true ∧
      encode (.frameData 3 [0xDD, 0xEE, 0xFF]) = .frame frameK3 := ⟨rfl, rfl, rfl⟩

theorem witness_StepRunsPresentedTransaction :
    State.arbitrate { waiting [(0, plainRequest 2), (1, plainRequest 4)] with grants := [.requester 1] } =
      some (.requester 1) ∧
    [(0, plainRequest 2), (1, plainRequest 4)] = [(0, plainRequest 2)] ++ (1, plainRequest 4) :: [] ∧
    (∀ x ∈ [(0, plainRequest 2)], x.1 ≠ 1) ∧ decode (.command (plainRequest 4)) = .ok .seqCurrent :=
  ⟨by decide, rfl, by decide, rfl⟩

theorem witness_StepRunsReceivedFrame :
    (inLoop 5 [.buffer frameK3]).engineMoves ∧
    (inLoop 5 [.buffer frameK3]).engine.phase = .receiving ⟨3, 5, 0, 0⟩ ∧
    (inLoop 5 [.buffer frameK3]).line.rx = .buffer frameK3 :: [] ∧
    decode (.frame frameK3) = .ok (.frameData 3 [0xDD, 0xEE, 0xFF]) := ⟨⟨rfl, rfl⟩, rfl, rfl, rfl⟩

theorem witness_ReservedOperationRefused :
    State.arbitrate { waiting [(0, plainRequest 2), (1, plainRequest 5)] with grants := [.requester 1] } =
      some (.requester 1) ∧
    [(0, plainRequest 2), (1, plainRequest 5)] = [(0, plainRequest 2)] ++ (1, plainRequest 5) :: [] ∧
    (∀ x ∈ [(0, plainRequest 2)], x.1 ≠ 1) ∧ 5 ≤ (plainRequest 5).op.toNat ∧ 5 ≤ (plainRequest 7).op.toNat := by
  decide

/-- A requester and the engine, the latter with a concurrent call; `test_refusedEncode` has the refused `ENCODE`. -/
theorem witness_RefusalLeavesBlockAlone :
    ((waiting [(0, plainRequest 5), (1, plainRequest 2)]).arbitrate = some (.requester 0) ∧
      step (waiting [(0, plainRequest 5), (1, plainRequest 2)]) = .refused (.reservedOperation 5) ∧ 1 ≠ 0) ∧
    (concurrent.arbitrate = some .engine ∧ step concurrent = .refused .concurrentCall) ∧
    (encoding longPayload).arbitrate = some .engine ∧ step (encoding longPayload) = .refused .illFormedPacket := by
  refine ⟨⟨rfl, rfl, by decide⟩, ⟨rfl, rfl⟩, rfl, ?_⟩
  have h := test_refusedEncode.1
  cases hs : step (encoding longPayload) <;> rw [hs] at h <;> cases h
  rfl

theorem witness_AnyReadyAgentMayBeNext :
    State.reset.assertReset.resetAsserted = true ∧ (waiting [(7, plainRequest 2)]).pendingOf 7 ≠ [] ∧
    (inLoop 5 []).engine.phase ≠ .idle ∧ (calling .connect).engine.calls ≠ [] ∧ concurrent.engine.overlapping ≠ [] := by
  decide

theorem witness_StepServesAtMostOne :
    step State.reset = .next State.reset ∧
    step State.reset.assertReset = .next { State.reset with history := [.reset] } := ⟨rfl, rfl⟩

theorem witness_ProgramOrderKept :
    step State.reset = .next State.reset ∧
    step (waiting [(0, plainRequest 3)]) =
      .next { State.reset with history := [.served (.requester 0) .seqReset .noResult] } := ⟨rfl, rfl⟩

theorem witness_StepKeepsLinearOrder :
    State.Linear { waiting [(0, plainRequest 4)] with block := ⟨1⟩, history := [.served .engine .seqNext (.value 0)] } ∧
    step { waiting [(0, plainRequest 4)] with block := ⟨1⟩, history := [.served .engine .seqNext (.value 0)] } =
      .next { State.reset with
        block := ⟨1⟩, result := .value 1,
        history := [.served .engine .seqNext (.value 0), .served (.requester 0) .seqCurrent (.value 1)] } :=
  ⟨⟨⟨rfl, trivial⟩, rfl⟩, rfl⟩

theorem witness_EveryTransactionServed :
    (waiting [(0, plainRequest 2), (1, plainRequest 3)]).resetAsserted = false ∧
    (waiting [(0, plainRequest 2), (1, plainRequest 3)]).engineBusy = false ∧
    ∀ x ∈ (waiting [(0, plainRequest 2), (1, plainRequest 3)]).pending,
      ∃ i : Instr, decodeRequest x.2 = .ok i ∧ i.wellFormed = true := by
  refine ⟨rfl, rfl, fun x hx => ?_⟩
  simp only [waiting, List.mem_cons, List.not_mem_nil, or_false] at hx
  rcases hx with rfl | rfl
  · exact ⟨.seqNext, rfl, rfl⟩
  · exact ⟨.seqReset, rfl, rfl⟩

theorem witness_PassiveWhenIdle : State.reset.quiet := ⟨rfl, rfl, rfl⟩

/-- The three calls, and a transport that does not open. -/
theorem witness_ConnectionCalls :
    (∀ k ∈ [HostCall.connect, .disconnect, .isConnected], (calling k).engineMoves ∧ (calling k).engine.phase = .idle ∧
      (calling k).engine.calls = [k]) ∧
    (calling .connect).line.openAnswer = .ok ∧
    State.engineMoves { calling .connect with line := { Line.reset with opens := [.error] } } ∧
    Line.openAnswer { Line.reset with opens := [.error] } = .error := by
  refine ⟨fun k hk => ?_, rfl, ⟨rfl, rfl⟩, rfl⟩
  exact ⟨⟨rfl, rfl⟩, rfl, rfl⟩

theorem witness_SendCommandAllocatesThenEncodes :
    ((inLoop 5 [.silence]).engine.phase ≠ .idle ∧ concurrent.arbitrate = some .engine) ∧
    ((calling .connect).engine.calls ≠ [] ∧ ((calling .connect).call (.sendCommand [] true)).arbitrate = some .engine) ∧
    ((calling (.sendCommand [] true)).engineMoves ∧ (calling (.sendCommand [] true)).engine.phase = .idle ∧
      (calling (.sendCommand [] true)).engine.calls = .sendCommand [] true :: [] ∧
      (calling (.sendCommand [] true)).line.isOpen = false) ∧
    State.engineMoves { calling (.sendCommand [] true) with line := { Line.reset with isOpen := true } } ∧
    ((engineAt (.called [1] true) []).engineMoves ∧
      (engineAt (.called [1] true) []).engine.phase = .called [1] true) ∧
    ((encoding [1]).engineMoves ∧ (encoding [1]).engine.phase = .allocated 3 [1] true ∧ ([1] : Bytes).length ≤ 65535) ∧
    (encoding longPayload).engineMoves ∧ (encoding longPayload).engine.phase = .allocated 3 longPayload true ∧
      65535 < longPayload.length :=
  ⟨⟨by decide, rfl⟩, ⟨by decide, rfl⟩, ⟨⟨rfl, rfl⟩, rfl, rfl, rfl⟩, ⟨rfl, rfl⟩, ⟨⟨rfl, rfl⟩, rfl⟩,
    ⟨⟨rfl, rfl⟩, rfl, by decide⟩, ⟨rfl, rfl⟩, rfl, longPayload_length.ge⟩

theorem witness_SendCommandTransmits :
    (∀ wait : Bool, (engineAt (.encoded 3 frameH4 wait) []).engineMoves ∧
      (engineAt (.encoded 3 frameH4 wait) []).engine.phase = .encoded 3 frameH4 wait ∧
      (engineAt (.encoded 3 frameH4 wait) []).line.writeAnswer = .ok ∧
      1 ≤ (engineAt (.encoded 3 frameH4 wait) []).engine.maxRetries) ∧
    ((engineAt (.encoded 3 frameH4 true) []).answerWrite .error).engineMoves ∧
    ((engineAt (.encoded 3 frameH4 true) []).answerWrite .error).line.writeAnswer = .error ∧
    State.engineMoves { State.reset with
      engine := { Engine.reset with phase := .encoded 3 frameH4 true, maxRetries := 0 } } :=
  ⟨fun _ => ⟨⟨rfl, rfl⟩, rfl, rfl, by simp [engineAt]⟩, ⟨rfl, rfl⟩, rfl, rfl, rfl⟩

/-- An exhausted stream, a timeout and a rejected buffer, with 2 attempts left and with 1. -/
theorem witness_NoUsableFrameCostsOneAttempt :
    (∀ n ∈ [2, 1], ∀ rx ∈ [[], [ReadItem.silence], [ReadItem.buffer [0x09]]],
      (inLoop n rx).engineMoves ∧ (inLoop n rx).engine.phase = .receiving ⟨3, n, 0, 0⟩ ∧ (inLoop n rx).line.rx = rx) ∧
    decodeFrame [0x09] = .fail .tooShort :=
  ⟨fun _ _ _ _ => ⟨⟨rfl, rfl⟩, rfl, rfl⟩, by decide⟩

theorem witness_ReadErrorIsFatal :
    (inLoop 5 [.readError]).engineMoves ∧ (inLoop 5 [.readError]).engine.phase = .receiving ⟨3, 5, 0, 0⟩ ∧
    (inLoop 5 [.readError]).line.rx = .readError :: [] := ⟨⟨rfl, rfl⟩, rfl, rfl⟩

/-- 2 attempts left and 1, for the two clauses; a `Request` and a `Data` packet of another sequence. -/
theorem witness_MismatchedFrameSkipped :
    (inLoop 2 []).engine.phase = .receiving ⟨3, 2, 0, 0⟩ ∧ (inLoop 1 []).engine.phase = .receiving ⟨3, 1, 0, 0⟩ ∧
    (Packet.mk .request 2 []).sequence ≠ 3 ∧ (Packet.mk .data 4 []).sequence ≠ 3 := by decide

/-- 2 attempts left and 1, for the first two clauses; another sequence for the third. -/
theorem witness_NotifyFrameAbsorbed :
    (inLoop 2 []).engine.phase = .receiving ⟨3, 2, 0, 0⟩ ∧ 2 ≤ (Waiting.mk 3 2 0 0).attempts ∧
    (inLoop 1 []).engine.phase = .receiving ⟨3, 1, 0, 0⟩ ∧ (Waiting.mk 3 1 0 0).attempts ≤ 1 ∧
    (4 : Byte) ≠ (Waiting.mk 3 2 0 0).expected := by decide

theorem witness_DataFrameResolves :
    (inLoop 5 []).engine.phase = .receiving ⟨3, 5, 0, 0⟩ ∧
    exec (frameInstr ⟨.data, 3, [1]⟩) (inLoop 5 []) = .next (after State.reset (exec (.frameData 3 [1]) (inLoop 5 []))) ∧
    (after State.reset (exec (.frameData 3 [1]) (inLoop 5 []))).engine.answers =
      (inLoop 5 []).engine.answers ++ [.packet ⟨.data, 3, [1]⟩] := ⟨rfl, rfl, rfl⟩

theorem witness_RequestFrameIsViolation :
    (inLoop 5 []).engine.phase = .receiving ⟨3, 5, 0, 0⟩ ∧
    decode (.frame frameH4) = .ok (.frameRequest 3 [1]) := ⟨rfl, rfl⟩

theorem witness_FrameOutsideLoopIgnored : ∀ w : Waiting, State.reset.engine.phase ≠ .receiving w := by
  intro w h; cases h

/-- H2, with a silent read among the notifications, and a loop of one attempt. -/
theorem witness_ExhaustionIsResponseTimeout :
    ((inLoop 3 [.buffer frameK4, .silence, .buffer frameK6, .readError]).engineAlone ∧
      (inLoop 3 [.buffer frameK4, .silence, .buffer frameK6, .readError]).engine.phase = .receiving ⟨3, 3, 0, 0⟩ ∧
      1 ≤ (Waiting.mk 3 3 0 0).attempts ∧
      ∀ x ∈ ([.buffer frameK4, .silence, .buffer frameK6, .readError] : List ReadItem).take 3, x.final 3 = false) ∧
    (inLoop 1 []).engineAlone ∧ (inLoop 1 []).engine.phase = .receiving ⟨3, 1, 0, 0⟩ :=
  ⟨⟨⟨rfl, rfl, rfl⟩, rfl, by decide, by decide⟩, ⟨rfl, rfl, rfl⟩, rfl⟩

theorem witness_RetryLoopIsBounded :
    (inLoop 3 [.buffer frameK4, .readError]).engineAlone ∧
      (inLoop 3 [.buffer frameK4, .readError]).engine.phase = .receiving ⟨3, 3, 0, 0⟩ ∧
      1 ≤ (Waiting.mk 3 3 0 0).attempts := ⟨⟨rfl, rfl, rfl⟩, rfl, by decide⟩

/-- A call whose request has been written and that waits with its whole budget. -/
theorem witness_StepKeepsSession :
    State.SessionOk { inLoop 5 [.silence] with line := { Line.reset with isOpen := true, tx := [frameH4] } } ∧
    State.SentRequests { inLoop 5 [.silence] with line := { Line.reset with isOpen := true, tx := [frameH4] } } ∧
    (after State.reset (step
      { inLoop 5 [.silence] with line := { Line.reset with isOpen := true, tx := [frameH4] } })).engine.phase =
      .receiving ⟨3, 4, 0, 100⟩ ∧
    step { inLoop 5 [.silence] with line := { Line.reset with isOpen := true, tx := [frameH4] } } =
      .next (after State.reset (step
        { inLoop 5 [.silence] with line := { Line.reset with isOpen := true, tx := [frameH4] } })) := by
  refine ⟨⟨rfl, by decide, by decide, by decide, rfl⟩, ?_, rfl, rfl⟩
  intro F hF
  simp only [List.mem_singleton] at hF
  subst hF
  exact ⟨3, [1], rfl⟩

end Sys2Proof.Tests
end

section
/-! The block's own state: the counter from reset through a run of `SEQ_NEXT` (R20, R29, R120). -/

namespace Sys2Proof.Machine

/-- The reduction modulo 256 is the wrap of the 8-bit sum (R128). -/
@[simp] theorem nextIdentifier_eq_add_one (c : Byte) : nextIdentifier c = c + 1 := by
  apply BitVec.eq_of_toNat_eq
  simp [nextIdentifier, BitVec.toNat_add]

/-- `SEQ_NEXT` as one update of the state (R120). -/
theorem exec_seqNext (s : State) :
    exec .seqNext s = .next ((s.setCounter (s.block.c + 1)).setResult (.value s.block.c)) := by
  rw [← nextIdentifier_eq_add_one]
  rfl

/-- A `SEQ_NEXT` at the head of a run contributes the counter, and the rest runs from the incremented counter. -/
theorem allocations_seqNext_cons (is : List Instr) (s : State) :
    allocations (.seqNext :: is) s =
      s.block.c :: allocations is ((s.setCounter (s.block.c + 1)).setResult (.value s.block.c)) := by
  simp [allocations, exec_seqNext, resultValue]

/-- From any counter, successive `SEQ_NEXT` return the successive values modulo 256 (R120, R125). -/
theorem allocations_replicate_seqNext (n : Nat) (s : State) :
    allocations (List.replicate n .seqNext) s = (List.range n).map (fun k => s.block.c + BitVec.ofNat 8 k) := by
  induction n generalizing s with
  | zero => rfl
  | succ n ih =>
    have shift (k : Nat) : s.block.c + 1#8 + BitVec.ofNat 8 k = s.block.c + BitVec.ofNat 8 (k + 1) := by
      rw [BitVec.ofNat_add, add_assoc, add_comm 1#8]
    rw [List.replicate_succ, allocations_seqNext_cons, ih, List.range_succ_eq_map]
    simp [shift]

end Sys2Proof.Machine

open Sys2Proof Sys2Proof.Machine

/-- Settles O1: the run of `SEQ_NEXT` from an arbitrary counter, at the counter's reset value 0. -/
theorem resetLeavesCounterZero : Obligations.ResetLeavesCounterZero := by
  refine ⟨rfl, fun s hs => ?_⟩
  have hc : s.block.c = 0 := congrArg Block.c hs
  simp only [allocations_replicate_seqNext, hc, zero_add]

end

section
/-! The frame `ENCODE` builds, field by field, and `DECODE` of it (R63, R66, R91, R107). -/

namespace Sys2Proof.Machine

/-- The sequence byte stands in the frame as it stands in the packet (R63). -/
@[simp] theorem byteAt_encodeFrame_sequence (p : Packet) : byteAt (encodeFrame p) 2 = p.sequence := rfl

/-- The byte after the payload is the checksum of the bytes from `TYPE` on (R66, R91). -/
theorem byteAt_encodeFrame_checksum (p : Packet) :
    byteAt (encodeFrame p) (5 + p.payload.length) = xor8 (frameBody Config.lenOrder p) := by
  obtain ⟨b3, b4, hb, hF⟩ := frameIn_eq_parts Config.lenOrder p
  obtain ⟨-, -, -, -, -, -, hchecksum, -, -⟩ := parts_fields 0x02 (wire p.type) p.sequence b3 b4 p.payload
    (xor8 ([wire p.type, p.sequence, b3, b4] ++ p.payload)) 0x03
  rw [encodeFrame, hF, hchecksum, frameBody, hb]
  rfl

/-- The sequence byte enters the checksum once, so changing it changes the checksum by the same bits (R63, R90). -/
theorem xor8_frameBody_xor_withSequence (o : LenOrder) (p : Packet) (v : Byte) :
    xor8 (frameBody o p) ^^^ xor8 (frameBody o { p with sequence := v }) = p.sequence ^^^ v := by
  have cancel (t q w r : Byte) : (t ^^^ (q ^^^ r)) ^^^ (t ^^^ (w ^^^ r)) = q ^^^ w := by
    ext i
    simp [Bool.xor_left_comm, Bool.xor_comm]
  simp only [frameBody, List.cons_append, List.nil_append, xor8_cons]
  exact cancel ..

/-- `DECODE` of a frame that `ENCODE` built from a packet whose payload fits answers that packet (R107). -/
theorem decodeFrame_encodeFrame {p : Packet} (h : p.payload.length ≤ 65535) :
    decodeFrame (encodeFrame p) = .ok p := by
  obtain ⟨b3, b4, hb, hF⟩ := frameIn_eq_parts Config.lenOrder p
  have hL : lengthValue Config.lenOrder b3 b4 = p.payload.length := lengthValue_lengthBytes _ h hb
  rw [encodeFrame, hF, decodeFrame_parts, hL]
  simp

/-- A decoded packet has the sequence byte of its buffer (R63). -/
theorem sequence_of_decodeFrame_ok {B : Bytes} {p : Packet} (h : decodeFrame B = .ok p) : p.sequence = byteAt B 2 := by
  obtain ⟨-, -, -, -, -, -, hsequence, -⟩ := (decodeFrame_eq_ok_iff B p).mp h
  exact hsequence

end Sys2Proof.Machine

open Sys2Proof Sys2Proof.Machine

/-- Settles O14: both codecs copy `SEQ`, the empty frame of each sequence value decodes to it, and the two checksums
differ exactly where the two `SEQ` bytes do. -/
theorem sequenceFieldCopied : Obligations.SequenceFieldCopied := by
  refine ⟨byteAt_encodeFrame_sequence, fun _ _ => sequence_of_decodeFrame_ok,
    fun v t => ⟨encodeFrame ⟨t, v, []⟩, decodeFrame_encodeFrame (Nat.zero_le _)⟩, fun p p' hp' _ => ?_⟩
  have hlength : p.payload.length = p'.payload.length := congrArg (fun q => q.payload.length) hp'
  calc byteAt (encodeFrame p) (5 + p.payload.length) ^^^ byteAt (encodeFrame p') (5 + p.payload.length)
    _ = xor8 (frameBody Config.lenOrder p) ^^^ xor8 (frameBody Config.lenOrder p') := by
      rw [byteAt_encodeFrame_checksum, hlength, byteAt_encodeFrame_checksum]
    _ = p.sequence ^^^ p'.sequence := by
      have hxor := xor8_frameBody_xor_withSequence Config.lenOrder p p'.sequence
      rwa [hp'] at hxor

end

section
/-! What each outcome of `DECODE` says about the buffer handed in (R101 to R106, R110, R113). -/

namespace Sys2Proof.Machine

/-- `DECODE` delivers its judgement of the buffer and changes nothing else (R100, R109). -/
theorem exec_decode_of_decodeFrame {B : Bytes} {r : DecodeResult} (h : decodeFrame B = r) (s : State) :
    exec (.decode B) s = .next { s with result := .decoded r } :=
  h ▸ execDecode_eq B s

/-- The result `DECODE` leaves is its judgement of the buffer. -/
theorem result_of_exec_decode {B : Bytes} {s t : State} (h : exec (.decode B) s = .next t) :
    t.result = .decoded (decodeFrame B) := by
  cases (execDecode_eq B s).symm.trans h
  rfl

/-- Extending a read by the byte after it, the checksum of the whole is 0 exactly when that byte is the checksum of
what stands before it (R90). -/
theorem xor8_memRead_succ_eq_zero_iff {B : Bytes} {i n : Nat} (h : i + n < B.length) :
    xor8 (memRead B i (n + 1)) = 0 ↔ xor8 (memRead B i n) = byteAt B (i + n) := by
  rw [memRead_succ B i n h, xor8_append, xor8_cons, xor8_nil, BitVec.ofNat_eq_ofNat, BitVec.xor_zero,
    BitVec.xor_eq_zero_iff]

theorem byteAt_set_self {B : Bytes} {i : Nat} (h : i < B.length) (b : Byte) : byteAt (B.set i b) i = b := by
  simp [byteAt, h]

theorem length_encodeFrame (p : Packet) : (encodeFrame p).length = 7 + p.payload.length := by
  obtain ⟨b3, b4, -, hF⟩ := frameIn_eq_parts Config.lenOrder p
  rw [encodeFrame, hF, parts_length]

/-- With the exact length, the byte the `LENGTH` field points to is the last of the buffer (R102). -/
theorem byteAt_last_of_exact {B : Bytes} {L : Nat} (hn : B.length = 7 + L) :
    byteAt B (B.length - 1) = byteAt B (6 + L) := by
  rw [hn, show 7 + L - 1 = 6 + L by omega]

/-- The length check alone decides `TooShort` (R101). -/
theorem decodeFrame_eq_tooShort_iff (B : Bytes) : decodeFrame B = .fail .tooShort ↔ B.length < 7 := by
  refine ⟨fun h => ?_, decodeFrame_short⟩
  by_contra hlong
  rw [decodeFrame_eq, if_neg hlong] at h
  repeat' split at h
  all_goals cases h

/-- `Incomplete` is the judgement of exactly the delimited buffers shorter than their `LENGTH` field implies (R103). -/
theorem decodeFrame_eq_incomplete_iff (B : Bytes) :
    decodeFrame B = .fail .incomplete ↔
      7 ≤ B.length ∧ byteAt B 0 = 0x02 ∧ byteAt B (B.length - 1) = 0x03 ∧ B.length < 7 + lengthField B := by
  rw [decodeFrame_eq]
  split_ifs with hshort hdelim hcut
  · exact iff_of_false nofun (by omega)
  · exact iff_of_false nofun (by tauto)
  · rw [not_or, not_not, not_not] at hdelim
    exact iff_of_true rfl ⟨not_lt.mp hshort, hdelim.1, hdelim.2, hcut⟩
  all_goals refine iff_of_false ?_ fun ⟨_, _, _, h⟩ => hcut h
  · nofun
  · nofun
  · split <;> nofun

/-- A delimited buffer of exact length with a wrong checksum byte (R105). -/
theorem decodeFrame_checksumMismatch {B : Bytes} (hn : B.length = 7 + lengthField B) (hfirst : byteAt B 0 = 0x02)
    (hlast : byteAt B (6 + lengthField B) = 0x03)
    (hsum : xor8 (memRead B 1 (4 + lengthField B)) ≠ byteAt B (5 + lengthField B)) :
    decodeFrame B = .fail .checksumMismatch := by
  rw [decodeFrame_exact hn hfirst ((byteAt_last_of_exact hn).trans hlast), if_pos hsum]

/-- A buffer right in all but its type byte (R106). -/
theorem decodeFrame_unknownType {B : Bytes} (hn : B.length = 7 + lengthField B) (hfirst : byteAt B 0 = 0x02)
    (hlast : byteAt B (6 + lengthField B) = 0x03)
    (hsum : xor8 (memRead B 1 (4 + lengthField B)) = byteAt B (5 + lengthField B)) (htype : byteAt B 1 ∉ typeCodes) :
    decodeFrame B = .fail .unknownType := by
  rw [decodeFrame_exact hn hfirst ((byteAt_last_of_exact hn).trans hlast), if_neg (not_not.mpr hsum),
    unwire_eq_none_iff.mpr htype]

/-- Any buffer long enough, its first byte replaced by no `STX` (R113). -/
theorem decodeFrame_set_first {B : Bytes} {b : Byte} (h : 7 ≤ B.length) (hb : b ≠ 0x02) :
    decodeFrame (B.set 0 b) = .fail .badFraming := by
  refine decodeFrame_delimiter (by rwa [List.length_set]) (.inl ?_)
  rwa [byteAt_set_self (by omega)]

/-- Any buffer long enough, its last byte replaced by no `ETX` (R113). -/
theorem decodeFrame_set_last {B : Bytes} {b : Byte} (h : 7 ≤ B.length) (hb : b ≠ 0x03) :
    decodeFrame (B.set (B.length - 1) b) = .fail .badFraming := by
  refine decodeFrame_delimiter (by rwa [List.length_set]) (.inr ?_)
  rwa [List.length_set, byteAt_set_self (by omega)]

end Sys2Proof.Machine

open Sys2Proof Sys2Proof.Machine

/-- Settles O19: the checksum check decides before the type is looked at; the XOR over one byte more is the XOR of
the two sides compared, and the third form names the same offsets from the end of the buffer. -/
theorem decodeChecksumMismatch : Obligations.DecodeChecksumMismatch := by
  rintro s B L rfl hn hfirst hlast
  set L := (byteAt B 3).toNat + 256 * (byteAt B 4).toNat
  refine ⟨fun hsum => exec_decode_of_decodeFrame (decodeFrame_checksumMismatch hn hfirst hlast hsum) s, ?_, ?_⟩
  · have hzero : xor8 (memRead B 1 (5 + L)) = 0 ↔ xor8 (memRead B 1 (4 + L)) = byteAt B (5 + L) := by
      rw [show 5 + L = 4 + L + 1 by omega, xor8_memRead_succ_eq_zero_iff (by omega), Nat.add_comm 1]
    exact (not_congr hzero).symm
  · rw [show B.length - 3 = 4 + L by omega, show B.length - 2 = 5 + L by omega]

/-- Settles O22: `ENCODE` returns the packet's frame, and `DECODE` of that frame answers the packet. -/
theorem decodeInvertsEncode : Obligations.DecodeInvertsEncode := by
  intro s s' t v payload hfits
  exact ⟨encodeFrame ⟨t, v, payload⟩, execEncode_wire t v payload s hfits,
    exec_decode_of_decodeFrame (decodeFrame_encodeFrame hfits) s'⟩

/-- Settles O15: `TooShort` is the judgement of exactly the buffers of fewer than 7 bytes. -/
theorem decodeTooShort : Obligations.DecodeTooShort := by
  intro s B
  refine ⟨fun h => exec_decode_of_decodeFrame (decodeFrame_short h) s,
    fun h => ⟨decodeFrame B, ?_, execDecode_eq B s⟩⟩
  rwa [ne_eq, decodeFrame_eq_tooShort_iff, not_lt]

/-- Settles O16: the delimiter check comes first once the buffer is long enough. -/
theorem decodeBadDelimiters : Obligations.DecodeBadDelimiters :=
  fun s _ h hdelim => exec_decode_of_decodeFrame (decodeFrame_delimiter h hdelim) s

/-- Settles O17: both directions are the characterisation of the judgement `Incomplete`. -/
theorem decodeIncomplete : Obligations.DecodeIncomplete := by
  intro s B
  refine ⟨fun h => exec_decode_of_decodeFrame ((decodeFrame_eq_incomplete_iff B).mpr h) s, fun t ht hresult => ?_⟩
  rw [result_of_exec_decode ht, Result.decoded.injEq] at hresult
  exact (decodeFrame_eq_incomplete_iff B).mp hresult

/-- Settles O20: with every other check passed, the type byte decides. -/
theorem decodeUnknownType : Obligations.DecodeUnknownType := by
  rintro s B L rfl hn hfirst hlast hsum htype
  exact exec_decode_of_decodeFrame (decodeFrame_unknownType hn hfirst hlast hsum htype) s

/-- Settles O25: a frame has at least 7 bytes, so a replaced delimiter is judged as such. -/
theorem framingSensitivity : Obligations.FramingSensitivity := by
  intro s p b _
  have hlong : 7 ≤ (encodeFrame p).length := by
    rw [length_encodeFrame]
    exact Nat.le_add_right ..
  exact ⟨fun hb => exec_decode_of_decodeFrame (decodeFrame_set_first hlong hb) s,
    fun hb => exec_decode_of_decodeFrame (decodeFrame_set_last hlong hb) s⟩

end

section
/-! The Sequence Allocator's three operations, and what any run without a reset allocates (R120 to R128). -/

namespace Sys2Proof.Machine

/-- `SEQ_RESET` as one update of the state (R121). -/
theorem exec_seqReset (s : State) : exec .seqReset s = .next ((s.setCounter 0).setResult .noResult) := rfl

/-- `SEQ_CURRENT` as one update of the state (R122). -/
theorem exec_seqCurrent (s : State) : exec .seqCurrent s = .next (s.setResult (.value s.block.c)) := rfl

/-- `SEQ_NEXT` and `SEQ_RESET` are the only instructions that write the counter (R21). -/
theorem exec_block_of_ne {i : Instr} {s t : State} (h : exec i s = .next t) (hnext : i ≠ .seqNext)
    (hreset : i ≠ .seqReset) : t.block = s.block := by
  obtain ⟨_, _, _, -, -, rfl⟩ | ⟨_, -, rfl⟩ | ⟨hi, -⟩ | ⟨hi, -⟩ | ⟨-, rfl⟩ | ⟨_, -, rfl⟩ := exec_next_cases h
  · simp
  · simp
  · exact absurd hi hnext
  · exact absurd hi hreset
  · simp
  · simp

/-- A run is its first transaction and then the rest (R48). -/
theorem serveAll_cons {i : Instr} {s t : State} (h : exec i s = .next t) (is : List Instr) :
    serveAll (i :: is) s = serveAll is t := by
  rw [serveAll, h]

/-- A transaction that is no `SEQ_NEXT` contributes no identifier (R125). -/
theorem allocations_cons_of_ne {i : Instr} {s t : State} (h : exec i s = .next t) (hnext : i ≠ .seqNext)
    (is : List Instr) : allocations (i :: is) s = allocations is t := by
  simp [allocations, h, hnext]

/-- Without a reset among them, what is served between the `SEQ_NEXT` of a run does not change the identifiers they
return (R125). -/
theorem allocations_eq_allocations_replicate {is : List Instr}
    (his : ∀ i ∈ is, i.wellFormed = true ∧ i ≠ .seqReset) (s : State) :
    allocations is s = allocations (List.replicate (is.count .seqNext) .seqNext) s := by
  induction is generalizing s with
  | nil => rfl
  | cons i is ih =>
    obtain ⟨⟨hwf, hreset⟩, hrest⟩ := List.forall_mem_cons.mp his
    by_cases hnext : i = .seqNext
    · subst hnext
      rw [List.count_cons_self, List.replicate_succ, allocations_seqNext_cons, allocations_seqNext_cons, ih hrest]
    · obtain ⟨t, ht⟩ := exec_wellFormed hwf s
      rw [List.count_cons_of_ne hnext, allocations_cons_of_ne ht hnext, ih hrest, allocations_replicate_seqNext,
        allocations_replicate_seqNext, exec_block_of_ne ht hnext hreset]

/-- A run of well-formed instructions without a reset completes, and adds to the counter the number of its `SEQ_NEXT`,
modulo 256 (R125). -/
theorem exists_serveAll_counter {is : List Instr} (his : ∀ i ∈ is, i.wellFormed = true ∧ i ≠ .seqReset) (s : State) :
    ∃ t : State, serveAll is s = .next t ∧ t.block.c = s.block.c + BitVec.ofNat 8 (is.count .seqNext) := by
  induction is generalizing s with
  | nil => exact ⟨s, rfl, (BitVec.add_zero _).symm⟩
  | cons i is ih =>
    obtain ⟨⟨hwf, hreset⟩, hrest⟩ := List.forall_mem_cons.mp his
    by_cases hnext : i = .seqNext
    · subst hnext
      obtain ⟨u, hu, hc⟩ := ih hrest ((s.setCounter (s.block.c + 1)).setResult (.value s.block.c))
      refine ⟨u, (serveAll_cons (exec_seqNext s) is).trans hu, hc.trans ?_⟩
      rw [List.count_cons_self, BitVec.ofNat_add, add_comm (BitVec.ofNat 8 _), ← add_assoc]
      rfl
    · obtain ⟨t, ht⟩ := exec_wellFormed hwf s
      obtain ⟨u, hu, hc⟩ := ih hrest t
      rw [exec_block_of_ne ht hnext hreset] at hc
      exact ⟨u, (serveAll_cons ht is).trans hu, by rw [hc, List.count_cons_of_ne hnext]⟩

end Sys2Proof.Machine

open Sys2Proof Sys2Proof.Machine

/-- Settles O8: the run allocates what as many `SEQ_NEXT` alone do, here from the counter 0. -/
theorem sequenceOfIdentifiers : Obligations.SequenceOfIdentifiers := by
  intro is s hc his
  have hmod (k : Nat) : BitVec.ofNat 8 (k % 256) = BitVec.ofNat 8 k := by
    apply BitVec.eq_of_toNat_eq
    simp
  obtain ⟨t, ht, htc⟩ := exists_serveAll_counter his s
  refine ⟨?_, t, ht, ?_⟩
  · simp only [allocations_eq_allocations_replicate his, allocations_replicate_seqNext, hc, zero_add, hmod]
  · rw [htc, hc, zero_add, hmod]

/-- Settles O3: the sum in 8 bits is the exact sum modulo 256. -/
theorem seqNextReturnsThenIncrements : Obligations.SeqNextReturnsThenIncrements :=
  fun s => ⟨s.block.c + 1, BitVec.toNat_add .., exec_seqNext s⟩

/-- Settles O4: the second reset writes what the first left. -/
theorem seqResetClearsCounter : Obligations.SeqResetClearsCounter := by
  intro s
  exact ⟨_, _, rfl, exec_seqReset s, exec_seqReset _, exec_seqNext _, rfl, rfl⟩

/-- Settles O5: the counter read is the one `SEQ_NEXT` returns, and the increment taken back gives it again. -/
theorem seqCurrentReadsOnly : Obligations.SeqCurrentReadsOnly := by
  intro s
  refine ⟨exec_seqCurrent s, _, _, _, exec_seqCurrent s, exec_seqNext _, rfl, exec_seqCurrent _, rfl, ?_⟩
  exact congrArg Result.value (add_sub_cancel_right s.block.c 1).symm

/-- Settles O6: the three operations are well formed, and a well-formed instruction completes. -/
theorem allocatorCannotFail : Obligations.AllocatorCannotFail := by
  rintro i s (rfl | rfl | rfl) <;> exact exec_wellFormed rfl s

/-- Settles O7: only the sum 256 is reduced, and two bytes hold less than 65536. -/
theorem counterArithmetic : Obligations.CounterArithmetic := by
  refine ⟨fun s t h => ?_, fun o b3 b4 => Nat.le_of_lt_succ (lengthValue_lt o b3 b4)⟩
  rw [exec_seqNext] at h
  cases h
  refine ⟨fun hle => ?_, fun hmax => ?_⟩
  · have hsum : (s.block.c + 1).toNat = (s.block.c.toNat + 1) % 256 := BitVec.toNat_add ..
    exact hsum.trans (Nat.mod_eq_of_lt (by omega))
  · exact congrArg (· + 1) hmax

end

section
/-! The retry loop of `send_command`: which received frame is given to the caller (R143 to R148). -/

namespace Sys2Proof.Machine

/-- In the retry loop a received frame is delivered and then judged (R143, R145). -/
theorem receiveFrame_receiving {s : State} {w : Waiting} (h : s.engine.phase = .receiving w) (p : Packet) :
    s.receiveFrame p = (s.deliverPacket p).judgePacket w p :=
  hostReceives_receiving (s := s.deliverPacket p) h p

/-- A `Data` packet of the expected sequence ends the call with success (R148). -/
theorem judgePacket_data (s : State) (w : Waiting) (payload : Bytes) :
    s.judgePacket w ⟨.data, w.expected, payload⟩ = s.finishCall (.packet ⟨.data, w.expected, payload⟩) := by
  simp [State.judgePacket]

/-- A spent attempt answers the caller with nothing or with `ResponseTimeout`, never with a packet (R143, R150). -/
theorem spendAttempt_answers_ne_packet (s : State) (w : Waiting) (a : Packet) :
    (s.spendAttempt w).engine.answers ≠ s.engine.answers ++ [.packet a] := by
  obtain ⟨-, h⟩ | ⟨-, h⟩ := spendAttempt_cases s w <;> rw [h]
  · simp
  · simp

/-- The only packet the retry loop answers with is the one it judges, a `Data` packet of the expected sequence
(R148). -/
theorem judgePacket_answers_packet {s : State} {w : Waiting} {p a : Packet}
    (h : (s.judgePacket w p).engine.answers = s.engine.answers ++ [.packet a]) :
    a = p ∧ p.type = .data ∧ p.sequence = w.expected := by
  obtain ⟨-, hj⟩ | ⟨-, -, hj⟩ | ⟨hsequence, htype, hj⟩ | ⟨-, -, hj⟩ := judgePacket_cases s w p <;> rw [hj] at h
  · exact absurd h (spendAttempt_answers_ne_packet s w a)
  · exact absurd h (spendAttempt_answers_ne_packet s _ a)
  · have hpacket : p = a := by simpa using h
    exact ⟨hpacket.symm, htype, hsequence⟩
  · simp at h

end Sys2Proof.Machine

open Sys2Proof Sys2Proof.Machine

/-- Settles O54: the frame is delivered and judged; of the four branches only that of the expected `Data` packet
answers the caller with a packet. -/
theorem dataFrameResolves : Obligations.DataFrameResolves := by
  intro s w hw
  refine ⟨fun payload => ?_, fun p a t ht hanswers => ?_⟩
  · have hframe : Instr.frameData w.expected payload = frameInstr ⟨.data, w.expected, payload⟩ := rfl
    rw [hframe, exec_frameInstr, receiveFrame_receiving hw, judgePacket_data]
    rfl
  · rw [exec_frameInstr, receiveFrame_receiving hw] at ht
    cases ht
    exact judgePacket_answers_packet hanswers

end

section
/-! The codec as a pair of inverse functions, and what damage to a frame does (R60, R66, R91, R100, R110 to R115). -/

namespace Sys2Proof.Machine

theorem payloadFits_iff {payload : Bytes} : payloadFits payload = true ↔ payload.length ≤ 65535 := by
  simp [payloadFits]

/-- The known `TYPE` bytes are the wire values of the packet types (R62). -/
theorem mem_typeCodes_iff {b : Byte} : b ∈ typeCodes ↔ ∃ t, b = wire t := by
  rw [← not_iff_not, ← unwire_eq_none_iff, Option.eq_none_iff_forall_ne_some, not_exists]
  exact forall_congr' fun t => not_congr unwire_eq_some_iff

/-- `ENCODE` of an unknown type byte or of a payload too long is refused: the accepting case has neither (R92). -/
theorem exec_encode_illFormed {type : Byte} {payload : Bytes}
    (h : unwire type = none ∨ 65535 < payload.length) (q : Byte) (s : State) :
    exec (.encode type q payload) s = .refused .illFormedPacket := by
  obtain ⟨t, rfl, hfits, -⟩ | ⟨-, hrefused⟩ := execEncode_cases type q payload s
  · rw [unwire_wire] at h
    exact absurd h (by simpa using hfits)
  · exact hrefused

/-- `xor8` folds from either end (R90). -/
theorem xor8_eq_foldr (B : Bytes) : xor8 B = B.foldr (fun b acc => b ^^^ acc) 0 := by
  induction B with
  | nil => rfl
  | cons b B ih => rw [xor8_cons, List.foldr_cons, ih]

/-- The two `LENGTH` bytes are determined by their value (R43). -/
theorem lengthBytes_lengthValue (o : LenOrder) (b3 b4 : Byte) :
    lengthBytes o (lengthValue o b3 b4) = [b3, b4] := by
  have hlow (x y : Byte) : BitVec.ofNat 8 ((x.toNat + 256 * y.toNat) % 256) = x := by
    have hx := x.isLt
    apply BitVec.eq_of_toNat_eq
    rw [BitVec.toNat_ofNat]
    omega
  have hhigh (x y : Byte) : BitVec.ofNat 8 ((x.toNat + 256 * y.toNat) / 256) = y := by
    have hx := x.isLt
    have hy := y.isLt
    apply BitVec.eq_of_toNat_eq
    rw [BitVec.toNat_ofNat]
    omega
  cases o <;> simp only [lengthBytes, lengthValue, hlow, hhigh]

/-- What `DECODE` accepts, `ENCODE` rebuilds byte for byte (41_frame_decode.md section 4). -/
theorem encodeFrame_of_decodeFrame_ok {B : Bytes} {p : Packet} (h : decodeFrame B = .ok p) : encodeFrame p = B := by
  obtain ⟨x, t, q, b3, b4, payload, k, e, rfl⟩ := exists_parts ((decodeFrame_eq_ok_iff B p).mp h).1
  rw [decodeFrame_parts] at h
  split_ifs at h with hdelim hlength hshort hsum
  rw [not_or, not_not, not_not] at hdelim
  rw [not_not] at hlength hsum
  cases ht : unwire t with
  | none => simp [ht] at h
  | some ty =>
    simp only [ht, DecodeResult.ok.injEq] at h
    subst h
    obtain ⟨b3', b4', hbytes, hF⟩ := frameIn_eq_parts Config.lenOrder ⟨ty, q, payload⟩
    rw [hlength, lengthBytes_lengthValue, List.cons.injEq, List.cons.injEq] at hbytes
    obtain ⟨rfl, rfl, -⟩ := hbytes
    rw [encodeFrame, hF, ← unwire_eq_some_iff.mp ht, hsum, hdelim.1, hdelim.2]

/-- A decoded packet is well formed: its payload is what two `LENGTH` bytes count (R64). -/
theorem payload_length_of_decodeFrame_ok {B : Bytes} {p : Packet} (h : decodeFrame B = .ok p) :
    p.payload.length ≤ 65535 := by
  obtain ⟨-, -, -, hn, -, -, -, hpayload⟩ := (decodeFrame_eq_ok_iff B p).mp h
  have hlt : lengthField B < 65536 := lengthValue_lt ..
  rw [hpayload, memRead_length]
  omega

/-- Packets with payloads that fit are told apart by their frames. -/
theorem encodeFrame_injective {p p' : Packet} (h : p.payload.length ≤ 65535) (h' : p'.payload.length ≤ 65535)
    (heq : encodeFrame p = encodeFrame p') : p = p' := by
  have hp := decodeFrame_encodeFrame h
  rw [heq, decodeFrame_encodeFrame h', DecodeResult.ok.injEq] at hp
  exact hp.symm

/-- The checksum byte makes the XOR from `TYPE` through itself zero (R66). -/
theorem xor8_memRead_of_decodeFrame_ok {B : Bytes} {p : Packet} (h : decodeFrame B = .ok p) :
    xor8 (memRead B 1 (5 + lengthField B)) = 0 := by
  obtain ⟨-, -, -, hn, hsum, -⟩ := (decodeFrame_eq_ok_iff B p).mp h
  rw [show 5 + lengthField B = 4 + lengthField B + 1 by omega, xor8_memRead_succ_eq_zero_iff (by omega),
    Nat.add_comm 1, hsum, show 5 + lengthField B = 4 + lengthField B + 1 by omega]

theorem encode_frameInstr (p : Packet) : encode (frameInstr p) = .frame (encodeFrame p) := by
  obtain ⟨t, q, payload⟩ := p
  cases t <;> rfl

theorem frameInstr_wellFormed (p : Packet) : (frameInstr p).wellFormed = p.wellFormed := by
  obtain ⟨t, q, payload⟩ := p
  cases t <;> rfl

/-- The decoder of wire frames is `DECODE` followed by the row the packet's type names (R70). -/
theorem decode_frame_eq_ok_iff {B : Bytes} {i : Instr} :
    decode (.frame B) = .ok i ↔ ∃ p, decodeFrame B = .ok p ∧ i = frameInstr p := by
  rw [decode, decodeBuffer]
  cases decodeFrame B with
  | ok p => simp [eq_comm]
  | fail k => simp

/-- The wire round trip of a received packet. -/
theorem decode_encode_frameInstr {p : Packet} (h : p.wellFormed = true) :
    decode (encode (frameInstr p)) = .ok (frameInstr p) := by
  rw [encode_frameInstr, decode_frame_eq_ok_iff]
  exact ⟨p, decodeFrame_encodeFrame (payloadFits_iff.mp h), rfl⟩

/-- The round trip of every instruction: a transaction's code and ports are read back as they were laid down, and a
frame decodes to its packet (R70, R71). -/
theorem decode_encode {i : Instr} (h : i.wellFormed = true) : decode (encode i) = .ok i := by
  cases i with
  | encode type q payload => rfl
  | decode buffer => rfl
  | seqNext => rfl
  | seqReset => rfl
  | seqCurrent => rfl
  | frameRequest q payload => exact decode_encode_frameInstr (p := ⟨.request, q, payload⟩) h
  | frameNotify q payload => exact decode_encode_frameInstr (p := ⟨.notify, q, payload⟩) h
  | frameData q payload => exact decode_encode_frameInstr (p := ⟨.data, q, payload⟩) h

/-- The pairs of a packet type and its wire value, as the table of R62 lists them. -/
theorem mem_wireTable_iff {t : PacketType} {b : Byte} :
    (t, b) ∈ ([(.request, 0x30), (.notify, 0x34), (.data, 0x35)] : List (PacketType × Byte)) ↔ b = wire t := by
  cases t <;> simp [wire]

end Sys2Proof.Machine

open Sys2Proof Sys2Proof.Machine

/-- Settles O34: each operation code selects its own operation again, and a frame decodes to its packet. -/
theorem decodeAgreesWithEncode : Obligations.DecodeAgreesWithEncode :=
  fun _ => decode_encode

/-- Settles O35: the buffer is the frame of the packet it decodes to; another instruction with that encoding would
decode from it too. -/
theorem frameWordsAreUnique : Obligations.FrameWordsAreUnique := by
  intro B i hi
  obtain ⟨p, hp, rfl⟩ := decode_frame_eq_ok_iff.mp hi
  refine ⟨?_, ?_, fun j hj hjB => ?_⟩
  · rw [frameInstr_wellFormed]
    exact payloadFits_iff.mpr (payload_length_of_decodeFrame_ok hp)
  · rw [encode_frameInstr, encodeFrame_of_decodeFrame_ok hp]
  · have hround := decode_encode hj
    rw [hjB, hi, Except.ok.injEq] at hround
    exact hround.symm

/-- Settles O36: the nine words, evaluated. -/
theorem writtenWordsDecode : Obligations.WrittenWordsDecode :=
  ⟨rfl, rfl, rfl, rfl, rfl, rfl, rfl, rfl, rfl⟩

/-- Settles O10: the frame is the model's own, its checksum folded from the other end. -/
theorem encodeReturnsFrame : Obligations.EncodeReturnsFrame := by
  rintro s type q payload htype hfits body rfl
  obtain ⟨t, rfl⟩ := mem_typeCodes_iff.mp htype
  rw [← xor8_eq_foldr]
  exact execEncode_wire t q payload s hfits

/-- Settles O11: a type byte the table does not list is unknown to the codec. -/
theorem encodeRefusesIllFormed : Obligations.EncodeRefusesIllFormed :=
  fun s _ q _ hbad => exec_encode_illFormed (hbad.imp_left unwire_eq_none_iff.mpr) q s

/-- Settles O12: the fields are those `DECODE` reads back from the frame. -/
theorem encodedFrameShape : Obligations.EncodedFrameShape := by
  rintro p F L rfl hfits rfl
  have hok := decodeFrame_encodeFrame hfits
  have hlen := length_encodeFrame p
  obtain ⟨-, hfirst, hlast, hn, hsum, htype, hsequence, hpayload⟩ := (decodeFrame_eq_ok_iff _ p).mp hok
  have hL : lengthField (encodeFrame p) = p.payload.length := by omega
  have hzero := xor8_memRead_of_decodeFrame_ok hok
  rw [hL] at hsum hpayload hzero
  rw [byteAt_last_of_exact hlen] at hlast
  exact ⟨hlen, hfirst, mem_typeCodes_iff.mpr ⟨p.type, htype⟩, hsequence.symm, hL, hpayload.symm, hsum.symm, hlast,
    hzero⟩

/-- Settles O13: an accepted `ENCODE` leaves the frame of its packet, and a frame decodes to one packet. -/
theorem encodeIsInjective : Obligations.EncodeIsInjective := by
  intro s s' t t' a b a' b' p p' h h' hresult
  obtain ⟨ty, rfl, hfits, he⟩ | ⟨-, he⟩ := execEncode_cases a b p s <;> cases he.symm.trans h
  obtain ⟨ty', rfl, hfits', he'⟩ | ⟨-, he'⟩ := execEncode_cases a' b' p' s' <;> cases he'.symm.trans h'
  rw [setResult_result, setResult_result, Result.frame.injEq] at hresult
  cases encodeFrame_injective (p := ⟨ty, b, p⟩) (p' := ⟨ty', b', p'⟩) hfits hfits' hresult
  exact ⟨rfl, rfl, rfl⟩

/-- Settles O18: of the two length failures, the buffer's length excludes `Incomplete`. -/
theorem decodeExcessBytes : Obligations.DecodeExcessBytes := by
  intro s B hlong hfirst hlast hexcess
  rw [← lengthField_eq] at hexcess
  refine exec_decode_of_decodeFrame ?_ s
  rw [decodeFrame_length hlong hfirst hlast (by omega), if_neg (by omega)]

/-- Settles O21: both directions are the characterisation of an accepted buffer. -/
theorem decodeSucceeds : Obligations.DecodeSucceeds := by
  intro s B
  constructor
  · rintro L t rfl hn hfirst hlast hsum htype
    refine exec_decode_of_decodeFrame ((decodeFrame_eq_ok_iff B _).mpr ?_) s
    exact ⟨by omega, hfirst, (byteAt_last_of_exact hn).trans hlast, hn, hsum, mem_wireTable_iff.mp htype, rfl, rfl⟩
  · intro t p ht hresult
    rw [result_of_exec_decode ht, Result.decoded.injEq] at hresult
    obtain ⟨-, hfirst, hlast, hn, hsum, htype, hsequence, hpayload⟩ := (decodeFrame_eq_ok_iff B p).mp hresult
    exact ⟨payloadFits_iff.mpr (payload_length_of_decodeFrame_ok hresult), lengthField B, lengthField_eq B, hn,
      hfirst, (byteAt_last_of_exact hn).symm.trans hlast, hsum, mem_wireTable_iff.mpr htype, hsequence, hpayload⟩

/-- Settles O23: the frame of the decoded packet is the buffer. -/
theorem encodeInvertsDecode : Obligations.EncodeInvertsDecode := by
  intro s s' t B p ht hresult
  rw [result_of_exec_decode ht, Result.decoded.injEq] at hresult
  rw [← encodeFrame_of_decodeFrame_ok hresult]
  exact execEncode_wire p.type p.sequence p.payload s' (payload_length_of_decodeFrame_ok hresult)

/-- Settles O26: no two `LENGTH` bytes count so many bytes, so the delimiters or the excess are wrong. -/
theorem longBufferIsBadFraming : Obligations.LongBufferIsBadFraming := by
  intro s B hlong
  refine exec_decode_of_decodeFrame ?_ s
  have hlt : lengthField B < 65536 := lengthValue_lt ..
  by_cases hdelim : byteAt B 0 ≠ 0x02 ∨ byteAt B (B.length - 1) ≠ 0x03
  · exact decodeFrame_delimiter (by omega) hdelim
  · rw [not_or, not_not, not_not] at hdelim
    rw [decodeFrame_length (by omega) hdelim.1 hdelim.2 (by omega), if_neg (by omega)]

/-- Settles O27: the frame's parts around the payload stay, and `xor8` does not see the order of the bytes. -/
theorem payloadReorderingUndetected : Obligations.PayloadReorderingUndetected := by
  intro p payload hfits hperm
  obtain ⟨b3, b4, hbytes, hF⟩ := frameIn_eq_parts Config.lenOrder p
  have hparts : memRead (encodeFrame p) 0 5 ++ payload ++ memRead (encodeFrame p) (5 + p.payload.length) 2 =
      parts 0x02 (wire p.type) p.sequence b3 b4 payload
        (xor8 ([wire p.type, p.sequence, b3, b4] ++ p.payload)) 0x03 := by
    rw [encodeFrame, hF]
    simp [parts, memRead, Nat.add_comm 5]
  have hsum : xor8 ([wire p.type, p.sequence, b3, b4] ++ payload) =
      xor8 ([wire p.type, p.sequence, b3, b4] ++ p.payload) := xor8_perm (hperm.append_left _)
  rw [hparts, decodeFrame_parts, lengthValue_lengthBytes _ hfits hbytes, hperm.length_eq, hsum]
  simp

/-- Settles O28: read in this hardware's order, the two `LENGTH` bytes of the peer count `L'`. -/
theorem byteOrderMismatch : Obligations.ByteOrderMismatch := by
  rintro p L L' rfl hfits hL'
  obtain ⟨b3, b4, hbytes, hF⟩ := frameIn_eq_parts .bigEndian p
  have hvalue : lengthValue Config.lenOrder b3 b4 = L' := by
    simp only [lengthBytes, List.cons.injEq, and_true] at hbytes
    obtain ⟨rfl, rfl⟩ := hbytes
    simp only [lengthValue, BitVec.toNat_ofNat]
    omega
  rw [hF, decodeFrame_parts, hvalue]
  by_cases heq : L' = p.payload.length
  · simp [heq]
  · simp [heq, Ne.symm heq]

end

section
/-! A single flipped bit of a frame (R112, conflict C1). -/

namespace Sys2Proof.Machine

/-- Replacing a byte changes the checksum by what the byte changes (R90). -/
theorem xor8_set {B : Bytes} {i : Nat} (h : i < B.length) (b : Byte) :
    xor8 (B.set i b) = xor8 B ^^^ (byteAt B i ^^^ b) := by
  have replace (x y r : Byte) : y ^^^ r = (x ^^^ r) ^^^ (x ^^^ y) := by
    ext j
    simp [Bool.xor_left_comm, Bool.xor_comm]
  induction B generalizing i with
  | nil => exact absurd h (Nat.not_lt_zero i)
  | cons a B ih =>
    cases i with
    | zero => simpa using replace a b (xor8 B)
    | succ i =>
      rw [List.set_cons_succ, xor8_cons, xor8_cons, byteAt_succ, ih (Nat.lt_of_succ_lt_succ h), BitVec.xor_assoc]

theorem flipBit_length (B : Bytes) (i k : Nat) : (flipBit B i k).length = B.length :=
  List.length_set

theorem byteAt_flipBit_self {B : Bytes} {i : Nat} (h : i < B.length) (k : Nat) :
    byteAt (flipBit B i k) i = byteAt B i ^^^ BitVec.twoPow 8 k :=
  byteAt_set_self h _

theorem byteAt_flipBit_of_ne (B : Bytes) {i j : Nat} (h : i ≠ j) (k : Nat) :
    byteAt (flipBit B i k) j = byteAt B j := by
  simp [byteAt, flipBit, h]

/-- A flipped bit of a buffer is one flipped bit of the checksum of any part that holds it (R90, R112). -/
theorem xor8_memRead_flipBit {B : Bytes} {i j n : Nat} (k : Nat) (hi : i < B.length) (hj : j ≤ i) (hn : i < j + n) :
    xor8 (memRead (flipBit B i k) j n) = xor8 (memRead B j n) ^^^ BitVec.twoPow 8 k := by
  have hset : memRead (flipBit B i k) j n = (memRead B j n).set (i - j) (byteAt B i ^^^ BitVec.twoPow 8 k) := by
    rw [memRead, flipBit, List.drop_set, if_neg (by omega), List.take_set, memRead]
  have hbyte : byteAt (memRead B j n) (i - j) = byteAt B i := by
    simp [byteAt, memRead, show i - j < n by omega, Nat.add_sub_cancel' hj]
  rw [hset, xor8_set (by rw [memRead_length]; omega), hbyte, ← BitVec.xor_assoc (byteAt B i), BitVec.xor_self,
    BitVec.zero_xor]

/-- The bit is there: `2^k` is no zero of 8 bits. -/
theorem twoPow_ne_zero {k : Nat} (hk : k < 8) : BitVec.twoPow 8 k ≠ 0 := by
  intro h
  have hbit := congrArg (fun b => b.getLsbD k) h
  simp [hk] at hbit

/-- A flipped bit changes its byte. -/
theorem xor_twoPow_ne (b : Byte) {k : Nat} (hk : k < 8) : b ^^^ BitVec.twoPow 8 k ≠ b := by
  intro h
  exact twoPow_ne_zero hk (by simpa using congrArg (b ^^^ ·) h)

/-- Clearing a set bit makes the byte's value less. -/
theorem toNat_xor_twoPow_lt {b : Byte} {k : Nat} (hk : k < 8) (hbit : b.getLsbD k = true) :
    (b ^^^ BitVec.twoPow 8 k).toNat < b.toNat := by
  refine Nat.lt_of_testBit k ?_ hbit fun j hj => ?_
  · rw [BitVec.testBit_toNat, BitVec.getLsbD_xor, hbit, BitVec.getLsbD_twoPow]
    simp [hk]
  · rw [BitVec.testBit_toNat, BitVec.getLsbD_xor, BitVec.getLsbD_twoPow]
    simp [hj.ne, BitVec.testBit_toNat]

/-- Setting a clear bit makes the byte's value greater: clearing it again gives the byte back. -/
theorem lt_toNat_xor_twoPow {b : Byte} {k : Nat} (hk : k < 8) (hbit : b.getLsbD k = false) :
    b.toNat < (b ^^^ BitVec.twoPow 8 k).toNat := by
  have hback : b ^^^ BitVec.twoPow 8 k ^^^ BitVec.twoPow 8 k = b := by
    rw [BitVec.xor_assoc, BitVec.xor_self, BitVec.xor_zero]
  have hset : (b ^^^ BitVec.twoPow 8 k).getLsbD k = true := by
    rw [BitVec.getLsbD_xor, hbit, BitVec.getLsbD_twoPow]
    simp [hk]
  simpa only [hback] using toNat_xor_twoPow_lt hk hset

/-- The `LENGTH` field grows with each of its bytes (R43). -/
theorem lengthField_lt_of_byteAt_lt {A B : Bytes} {i : Nat} (hi : i = 3 ∨ i = 4)
    (hlt : (byteAt A i).toNat < (byteAt B i).toNat) (hother : ∀ j, i ≠ j → byteAt A j = byteAt B j) :
    lengthField A < lengthField B := by
  rw [lengthField_eq, lengthField_eq]
  obtain rfl | rfl := hi
  · rw [hother 4 (by decide)]
    omega
  · rw [hother 3 (by decide)]
    omega

/-- A flip inside an accepted buffer leaves both its delimiters (R102). -/
theorem flipBit_delimiters {B : Bytes} {p : Packet} (h : decodeFrame B = .ok p) {i : Nat} (hi : 0 < i)
    (hi' : i < 6 + lengthField B) (k : Nat) :
    byteAt (flipBit B i k) 0 = 0x02 ∧ byteAt (flipBit B i k) ((flipBit B i k).length - 1) = 0x03 := by
  obtain ⟨-, hfirst, hlast, hn, -⟩ := (decodeFrame_eq_ok_iff B p).mp h
  rw [flipBit_length, byteAt_flipBit_of_ne B (by omega), byteAt_flipBit_of_ne B (by omega)]
  exact ⟨hfirst, hlast⟩

/-- A flipped bit of the `LENGTH` field: a set bit cleared leaves excess bytes, a clear bit set leaves bytes missing
(R103, R104). -/
theorem decodeFrame_flipBit_length {B : Bytes} {p : Packet} (h : decodeFrame B = .ok p) {i k : Nat}
    (hi : i = 3 ∨ i = 4) (hk : k < 8) :
    decodeFrame (flipBit B i k) = if (byteAt B i).getLsbD k then .fail .badFraming else .fail .incomplete := by
  obtain ⟨hlong, -, -, hn, -⟩ := (decodeFrame_eq_ok_iff B p).mp h
  obtain ⟨hfirst, hlast⟩ := flipBit_delimiters h (i := i) (by omega) (by omega) k
  have hself := byteAt_flipBit_self (B := B) (i := i) (by omega) k
  have hother (j : Nat) (hj : i ≠ j) := byteAt_flipBit_of_ne B hj k
  rw [← flipBit_length B i k] at hlong
  split_ifs with hbit
  · have hless : lengthField (flipBit B i k) < lengthField B :=
      lengthField_lt_of_byteAt_lt hi (hself ▸ toNat_xor_twoPow_lt hk hbit) hother
    rw [decodeFrame_length hlong hfirst hlast (by rw [flipBit_length]; omega),
      if_neg (by rw [flipBit_length]; omega)]
  · have hmore : lengthField B < lengthField (flipBit B i k) :=
      lengthField_lt_of_byteAt_lt hi (hself ▸ lt_toNat_xor_twoPow hk (Bool.eq_false_iff.mpr hbit))
        fun j hj => (hother j hj).symm
    rw [decodeFrame_length hlong hfirst hlast (by rw [flipBit_length]; omega),
      if_pos (by rw [flipBit_length]; omega)]

/-- A flipped bit that the checksum covers, or one of the checksum itself (R105). -/
theorem decodeFrame_flipBit_checked {B : Bytes} {p : Packet} (h : decodeFrame B = .ok p) {i k : Nat} (hi : 0 < i)
    (hi' : i < 6 + lengthField B) (hthree : i ≠ 3) (hfour : i ≠ 4) (hk : k < 8) :
    decodeFrame (flipBit B i k) = .fail .checksumMismatch := by
  obtain ⟨hlong, -, -, hn, -⟩ := (decodeFrame_eq_ok_iff B p).mp h
  obtain ⟨hfirst, hlast⟩ := flipBit_delimiters h hi hi' k
  have hfield : lengthField (flipBit B i k) = lengthField B := by
    rw [lengthField_eq, lengthField_eq, byteAt_flipBit_of_ne B hthree, byteAt_flipBit_of_ne B hfour]
  have hlen : (flipBit B i k).length = 7 + lengthField (flipBit B i k) := by
    rw [flipBit_length, hfield, hn]
  refine decodeFrame_checksumMismatch hlen hfirst ((byteAt_last_of_exact hlen).symm.trans hlast) ?_
  rw [show 5 + lengthField (flipBit B i k) = 1 + (4 + lengthField (flipBit B i k)) by omega, ne_eq,
    ← xor8_memRead_succ_eq_zero_iff (by omega), hfield, show 4 + lengthField B + 1 = 5 + lengthField B by omega,
    xor8_memRead_flipBit k (by omega) (by omega) (by omega), xor8_memRead_of_decodeFrame_ok h,
    BitVec.ofNat_eq_ofNat, BitVec.zero_xor]
  exact twoPow_ne_zero hk

end Sys2Proof.Machine

open Sys2Proof Sys2Proof.Machine

/-- Settles O24: a frame is an accepted buffer, and each field of one answers a flip with its own failure. -/
theorem singleBitFlipDetected : Obligations.SingleBitFlipDetected := by
  rintro p F L i k rfl hfits rfl hi hk
  have hok := decodeFrame_encodeFrame hfits
  obtain ⟨hlong, hfirst, hlast, hn, -⟩ := (decodeFrame_eq_ok_iff _ p).mp hok
  have hlen := length_encodeFrame p
  have hL : lengthField (encodeFrame p) = p.payload.length := by omega
  have hend : 6 + p.payload.length = (encodeFrame p).length - 1 := by omega
  split_ifs with hdelim hlength hbit
  · obtain rfl | rfl := hdelim
    · exact decodeFrame_set_first hlong (hfirst ▸ xor_twoPow_ne _ hk)
    · rw [hend]
      exact decodeFrame_set_last hlong (hlast ▸ xor_twoPow_ne _ hk)
  · rw [decodeFrame_flipBit_length hok hlength hk, if_pos hbit]
  · rw [decodeFrame_flipBit_length hok hlength hk, if_neg hbit]
  · rw [not_or] at hdelim hlength
    exact decodeFrame_flipBit_checked hok (by omega) (by omega) hlength.1 hlength.2 hk

end

section
/-! What the operations return and leave, over every state of the block (R20 to R26, R49, R125 to R127). -/

namespace Sys2Proof.Machine

@[simp] theorem resultAt_frameInstr (c : Byte) (p : Packet) : resultAt c (frameInstr p) = .decoded (.ok p) := by
  obtain ⟨t, q, payload⟩ := p
  cases t <;> rfl

@[simp] theorem counterAfter_frameInstr (c : Byte) (a : Agent) (p : Packet) (r : Result) :
    counterAfter c (.served a (frameInstr p) r) = c := by
  obtain ⟨t, q, payload⟩ := p
  cases t <;> rfl

/-- An instruction returns what the rules say at the counter's value (R91, R100, R120 to R122). -/
theorem exec_result {i : Instr} {s t : State} (h : exec i s = .next t) : t.result = resultAt s.block.c i := by
  obtain ⟨_, _, _, rfl, -, rfl⟩ | ⟨_, rfl, rfl⟩ | ⟨rfl, rfl⟩ | ⟨rfl, rfl⟩ | ⟨rfl, rfl⟩ | ⟨p, rfl, rfl⟩ :=
    exec_next_cases h
  · simp [resultAt]
  · rfl
  · rfl
  · rfl
  · rfl
  · simp

/-- An instruction moves the counter as its place in the order says (R21). -/
theorem exec_counter {i : Instr} {s t : State} (h : exec i s = .next t) (a : Agent) (r : Result) :
    t.block.c = counterAfter s.block.c (.served a i r) := by
  obtain ⟨_, _, _, rfl, -, rfl⟩ | ⟨_, rfl, rfl⟩ | ⟨rfl, rfl⟩ | ⟨rfl, rfl⟩ | ⟨rfl, rfl⟩ | ⟨p, rfl, rfl⟩ :=
    exec_next_cases h
  · rfl
  · rfl
  · exact nextIdentifier_eq_add_one s.block.c
  · rfl
  · rfl
  · simp

/-- Whether an instruction is refused does not depend on the state (R92, R172). -/
theorem exec_refused_of_refused {i : Instr} {s : State} {r : Refusal} (h : exec i s = .refused r) (s' : State) :
    exec i s' = .refused r := by
  obtain ⟨rfl, type, q, payload, rfl, hbad⟩ := exec_refused_cases h
  exact exec_encode_illFormed hbad q s'

/-- Whether an instruction completes does not depend on the state. -/
theorem exec_next_of_next {i : Instr} {s t : State} (h : exec i s = .next t) (s' : State) :
    ∃ t', exec i s' = .next t' := by
  cases hx : exec i s' with
  | next t' => exact ⟨t', rfl⟩
  | fault f => cases f
  | refused r => cases h.symm.trans (exec_refused_of_refused hx s)

/-- What an instruction returns and leaves in the block is a function of the counter (R20, R26). -/
theorem exec_congr_block {i : Instr} {s s' t t' : State} (hblock : s.block = s'.block) (h : exec i s = .next t)
    (h' : exec i s' = .next t') : t'.block = t.block ∧ t'.result = t.result := by
  have hc : t'.block.c = t.block.c := by
    rw [exec_counter h .engine .noResult, exec_counter h' .engine .noResult, hblock]
  exact ⟨congrArg Block.mk hc, by rw [exec_result h, exec_result h', hblock]⟩

/-- An instruction that is no received frame leaves the Session Engine alone (R28). -/
theorem exec_engine_of_not_frame {i : Instr} {s t : State} (h : exec i s = .next t) (hi : ∀ p, i ≠ frameInstr p) :
    t.engine = s.engine := by
  obtain ⟨_, _, _, -, -, rfl⟩ | ⟨_, -, rfl⟩ | ⟨-, rfl⟩ | ⟨-, rfl⟩ | ⟨-, rfl⟩ | ⟨p, hp, -⟩ := exec_next_cases h
  · rfl
  · rfl
  · rfl
  · rfl
  · rfl
  · exact absurd hp (hi p)

/-- None of the block's five operations is a row of the frame table (R70, R71). -/
theorem ne_frameInstr_of_operation {i : Instr}
    (hi : (∃ type sequence payload, i = .encode type sequence payload) ∨ (∃ buffer, i = .decode buffer) ∨
      i = .seqNext ∨ i = .seqReset ∨ i = .seqCurrent) (p : Packet) : i ≠ frameInstr p := by
  obtain ⟨t, q, payload⟩ := p
  rintro rfl
  cases t <;> simp [frameInstr] at hi

/-- Two identifiers of a run from one counter agree when their numbers agree modulo 256 (R126). -/
theorem add_ofNat_eq_add_ofNat_iff (c : Byte) {j k : Nat} (hjk : j ≤ k) :
    c + BitVec.ofNat 8 j = c + BitVec.ofNat 8 k ↔ 256 ∣ k - j := by
  rw [BitVec.add_right_inj, ← BitVec.toNat_inj, BitVec.toNat_ofNat, BitVec.toNat_ofNat]
  exact Nat.modEq_iff_dvd' hjk

end Sys2Proof.Machine

open Sys2Proof Sys2Proof.Machine

/-- Settles O9: the identifiers of a run are the counter's value plus their numbers, in 8 bits; a reset between two
allocations makes both 0. -/
theorem identifiersUniqueWithinWindow : Obligations.IdentifiersUniqueWithinWindow := by
  refine ⟨fun s hs => ?_, fun is s his => ?_⟩
  · rw [allocations_seqNext_cons, allocations_cons_of_ne (exec_seqReset _) (by decide), allocations_seqNext_cons, hs]
    rfl
  rw [allocations_eq_allocations_replicate his, allocations_replicate_seqNext]
  refine ⟨fun j k hjk hk => ?_, fun hwindow => ?_, by simp⟩
  · have hj := hjk.trans_lt hk
    simp only [List.getElem?_map, List.getElem?_range hj, List.getElem?_range hk, Option.map_some, Option.some.injEq]
    exact add_ofNat_eq_add_ofNat_iff s.block.c hjk
  · have hinjective (j k : Nat) (hk : k < is.count .seqNext) (hjk : j ≤ k)
        (heq : s.block.c + BitVec.ofNat 8 j = s.block.c + BitVec.ofNat 8 k) : j = k := by
      have hdvd := (add_ofNat_eq_add_ofNat_iff s.block.c hjk).mp heq
      omega
    refine List.Nodup.map_on (fun j hj k hk heq => ?_) List.nodup_range
    rw [List.mem_range] at hj hk
    obtain hjk | hkj := le_total j k
    · exact hinjective j k hk hjk heq
    · exact (hinjective k j hj hkj heq.symm).symm

/-- Settles O29: the cases of the other instructions leave the block as it was. -/
theorem onlyAllocatorWritesCounter : Obligations.OnlyAllocatorWritesCounter :=
  fun _ _ _ => exec_block_of_ne

/-- Settles O31: completion and refusal do not depend on the state, results and counter on the counter alone. -/
theorem noHiddenState : Obligations.NoHiddenState := by
  refine fun i s s' hblock => ⟨fun t ht => ?_, fun r hr => exec_refused_of_refused hr s'⟩
  obtain ⟨t', ht'⟩ := exec_next_of_next ht s'
  exact ⟨t', ht', exec_congr_block hblock ht ht'⟩

/-- Settles O30: a codec operation leaves the block as it was and returns the same at every counter value. -/
theorem codecCommutes : Obligations.CodecCommutes := by
  intro i j s a b a' b' hi ha hb hb' ha'
  have hblock {u v : State} (h : exec i u = .next v) : v.block = u.block := by
    obtain ⟨_, _, _, rfl⟩ | ⟨_, rfl⟩ := hi <;> exact exec_block_of_ne h nofun nofun
  have hresult : resultAt b'.block.c i = resultAt s.block.c i := by
    obtain ⟨_, _, _, rfl⟩ | ⟨_, rfl⟩ := hi <;> rfl
  obtain ⟨hjblock, hjresult⟩ := exec_congr_block (hblock ha) hb hb'
  exact ⟨by rw [exec_result ha', exec_result ha, hresult], hjresult, (hblock ha').trans hjblock⟩

/-- Settles O32: the fields no instruction writes, and the engine, which only received frames reach. -/
theorem operationsFrame : Obligations.OperationsFrame := by
  intro i s t hi ht
  obtain ⟨hpending, hreset, hgrants, hhistory, hrefusals, hline, -⟩ := exec_frame ht
  exact ⟨hpending, hreset, hgrants, hhistory, hrefusals, exec_engine_of_not_frame ht (ne_frameInstr_of_operation hi),
    hline, exec_block_of_ne ht⟩

/-- Settles O33: the frame rows are one operation on their packet, and its frame is known. -/
theorem receivedFramesFrame : Obligations.ReceivedFramesFrame := by
  rintro i p s rfl
  refine ⟨s.receiveFrame p, exec_frameInstr p s, ?_⟩
  simp

end

section
/-! The step and the order of service: whose turn it is, what it takes from the queue, and what the history and the
counter say afterwards (R48, R172, R176, R190, R206). -/

namespace Sys2Proof.Machine

/-- A place added at the end of the order is explained from the counter the places before it left (R48 b). -/
theorem explained_append (c : Byte) (es : List Event) (e : Event) :
    explained c (es ++ [e]) ↔ explained c es ∧ explained (es.foldl counterAfter c) [e] := by
  induction es generalizing c with
  | nil => simp [explained]
  | cons e' es ih =>
    cases e' with
    | reset => exact ih (counterAfter c .reset)
    | served a i r =>
      simp only [List.cons_append, explained, List.foldl_cons, ih, and_assoc]

/-- A step leaves the order and the block as they are, or adds one place to the order, explained by the counter, and
moves the counter as that place says (R21, R48). -/
theorem step_history {s t : State} (h : step s = .next t) :
    (t.history = s.history ∧ t.block = s.block) ∨
    ∃ e, t.history = s.history ++ [e] ∧ t.block.c = counterAfter s.block.c e ∧ explained s.block.c [e] := by
  obtain ⟨-, rfl⟩ | hf | ⟨a, i, u, v, hf, hx, rfl⟩ := step_next_cases h
  · exact .inl ⟨rfl, rfl⟩
  · obtain ⟨-, rfl⟩ | ⟨-, hblock, -, -, -, hhistory, -, -⟩ := fetch_internal_cases hf
    · exact .inr ⟨.reset, rfl, rfl, trivial⟩
    · exact .inl ⟨hhistory, hblock⟩
  · have hu : u.history = s.history ∧ u.block = s.block := by
      obtain ⟨_, _, _, _, -, -, -, -, -, rfl⟩ | ⟨-, -, _, rfl⟩ := fetch_instruction_cases hf <;> exact ⟨rfl, rfl⟩
    obtain ⟨hhistory, hblock⟩ := hu
    obtain ⟨-, -, -, hvhistory, -⟩ := exec_frame hx
    obtain ⟨htblock, -, -, -, -, hthistory, -⟩ := complete_frame v a i
    refine .inr ⟨.served a i v.result, ?_, ?_, ?_⟩
    · rw [hthistory, hvhistory, hhistory]
    · rw [htblock, exec_counter hx, hblock]
    · exact ⟨by rw [exec_result hx, hblock], trivial⟩

/-- Every step keeps the history a total order that explains every result and the counter (R48 b). -/
theorem step_keeps_linear {s t : State} (hs : s.Linear) (h : step s = .next t) : t.Linear := by
  obtain ⟨hexplained, hcounter⟩ := hs
  obtain ⟨hhistory, hblock⟩ | ⟨e, hhistory, hc, he⟩ := step_history h
  · exact ⟨hhistory ▸ hexplained, by rw [hhistory, hblock, hcounter]⟩
  · rw [hcounter] at hc he
    refine ⟨?_, ?_⟩
    · rw [hhistory, explained_append]
      exact ⟨hexplained, he⟩
    · rw [hc, hhistory, List.foldl_append, List.foldl_cons, List.foldl_nil]

/-- Taking a requester's oldest transaction takes the first of its own and none of another's (R48 c). -/
theorem pendingOf_of_split {s t : State} {r : Nat} {q : Request} {before after : List (Nat × Request)}
    (hs : s.pending = before ++ (r, q) :: after) (hbefore : ∀ x ∈ before, x.1 ≠ r) (ht : t.pending = before ++ after) :
    s.pendingOf r = q :: t.pendingOf r ∧ ∀ r' ≠ r, t.pendingOf r' = s.pendingOf r' := by
  have hnone : before.filter (fun x => x.1 == r) = [] := by
    simpa using hbefore
  refine ⟨?_, fun r' hr' => ?_⟩
  · simp [State.pendingOf, hs, ht, hnone]
  · simp [State.pendingOf, hs, ht, hr'.symm]

/-- A requester's turn, its oldest transaction an instruction (R48 c, R79). -/
theorem fetch_of_requester {s : State} {r : Nat} {q : Request} {i : Instr} {before after : List (Nat × Request)}
    (h : s.arbitrate = some (.requester r)) (hs : s.pending = before ++ (r, q) :: after)
    (hbefore : ∀ x ∈ before, x.1 ≠ r) (hq : decodeRequest q = .ok i) :
    s.fetch = .instruction (.requester r) i { s.popGrant with pending := before ++ after } := by
  rw [fetch_of_arbitrate h, State.fetchFor, State.fetchRequester, popGrant_pending, hs, takePending_split hbefore]
  simp only [hq]

/-- A requester's turn, its oldest transaction no instruction (R74). -/
theorem fetch_of_requester_rejected {s : State} {r : Nat} {q : Request} {j : Reject}
    {before after : List (Nat × Request)} (h : s.arbitrate = some (.requester r))
    (hs : s.pending = before ++ (r, q) :: after) (hbefore : ∀ x ∈ before, x.1 ≠ r) (hq : decodeRequest q = .error j) :
    s.fetch = .reject (.reservedOperation q.op) := by
  rw [fetch_of_arbitrate h, State.fetchFor, State.fetchRequester, popGrant_pending, hs, takePending_split hbefore]
  simp only [hq]

/-- Operation codes 5, 6 and 7 are no instruction (R74). -/
theorem decodeRequest_reserved {q : Request} (h : 5 ≤ q.op.toNat) :
    decodeRequest q = .error (.reservedOperation q.op) := by
  unfold decodeRequest
  split
  · omega
  · omega
  · omega
  · omega
  · omega
  · rfl

/-- No transaction of the command interface asks for a row of the frame table (R70, R71). -/
theorem ne_frameInstr_of_decodeRequest {q : Request} {i : Instr} (h : decodeRequest q = .ok i) (p : Packet) :
    i ≠ frameInstr p := by
  refine ne_frameInstr_of_operation ?_ p
  unfold decodeRequest at h
  split at h <;> cases h
  · exact .inl ⟨_, _, _, rfl⟩
  · exact .inr (.inl ⟨_, rfl⟩)
  · exact .inr (.inr (.inl rfl))
  · exact .inr (.inr (.inr (.inl rfl)))
  · exact .inr (.inr (.inr (.inr rfl)))

/-- A requester's transactions are exactly those that make it ready. -/
theorem ready_requester_iff {s : State} {r : Nat} : s.ready (.requester r) = true ↔ s.pendingOf r ≠ [] := by
  simp [State.ready, State.pendingOf]

/-- The engine is busy when a call runs, waits, or is to be refused. -/
theorem engineBusy_iff {s : State} : s.engineBusy = true ↔
    s.engine.phase ≠ .idle ∨ s.engine.calls ≠ [] ∨ s.engine.overlapping ≠ [] := by
  simp [State.engineBusy, or_assoc]

/-- The next grant decides when its agent has something to do (R48 d). -/
theorem arbitrate_of_granted {s : State} {a : Agent} {gs : List Agent} (hg : s.grants = a :: gs)
    (ha : s.ready a = true) : s.arbitrate = some a := by
  simp [State.arbitrate, hg, ha]

/-- Nobody acts in a quiet state. -/
theorem arbitrate_of_quiet {s : State} (h : s.quiet) : s.arbitrate = none := by
  obtain ⟨hpending, hreset, hbusy⟩ := h
  cases ha : s.arbitrate with
  | none => rfl
  | some a =>
    have hready := arbitrate_ready ha
    cases a with
    | requester r => simp [State.ready, hpending] at hready
    | resetLine => simp [State.ready, hreset] at hready
    | engine => simp [State.ready, hbusy] at hready

/-- Somebody acts while a transaction waits. -/
theorem arbitrate_ne_none {s : State} (h : s.pending ≠ []) : s.arbitrate ≠ none := by
  have hdefault : s.defaultAgent ≠ none := by
    obtain ⟨x, l, hp⟩ := List.exists_cons_of_ne_nil h
    simp only [State.defaultAgent, hp]
    split_ifs <;> simp
  unfold State.arbitrate
  split
  · split_ifs
    · simp
    · exact hdefault
  · exact hdefault

/-- With the reset line and the engine at rest, a requester acts while a transaction waits. -/
theorem exists_arbitrate_requester {s : State} (hreset : s.resetAsserted = false) (hbusy : s.engineBusy = false)
    (h : s.pending ≠ []) : ∃ r, s.arbitrate = some (.requester r) := by
  cases ha : s.arbitrate with
  | none => exact absurd ha (arbitrate_ne_none h)
  | some a =>
    have hready := arbitrate_ready ha
    cases a with
    | requester r => exact ⟨r, rfl⟩
    | resetLine => simp [State.ready, hreset] at hready
    | engine => simp [State.ready, hbusy] at hready

/-- The oldest transaction of the requester whose turn it is. -/
theorem exists_split_of_arbitrate {s : State} {r : Nat} (h : s.arbitrate = some (.requester r)) :
    ∃ q before after, s.pending = before ++ (r, q) :: after ∧ ∀ x ∈ before, x.1 ≠ r := by
  cases ht : takePending r s.pending with
  | none =>
    have hready := arbitrate_ready h
    obtain ⟨x, hx, hxr⟩ := List.any_eq_true.mp hready
    exact absurd (beq_iff_eq.mp hxr) (takePending_eq_none ht x hx)
  | some found =>
    obtain ⟨before, after, hs, hbefore, -⟩ := takePending_eq_some (q := found.1) (rest := found.2) ht
    exact ⟨found.1, before, after, hs, hbefore⟩

/-- The step that serves a requester's oldest transaction, a well-formed one: it takes it from the queue, adds its place
to the order, and leaves the reset line, the refusals and the engine as they are (R48). -/
theorem step_serves_requester {s : State} {r : Nat} {q : Request} {i : Instr} {before after : List (Nat × Request)}
    (h : s.arbitrate = some (.requester r)) (hs : s.pending = before ++ (r, q) :: after)
    (hbefore : ∀ x ∈ before, x.1 ≠ r) (hq : decodeRequest q = .ok i) (hi : i.wellFormed = true) :
    ∃ t, step s = .next t ∧ t.pending = before ++ after ∧ t.resetAsserted = s.resetAsserted ∧
      t.refusals = s.refusals ∧ t.engine = s.engine ∧ t.history.length = s.history.length + 1 := by
  obtain ⟨v, hv⟩ := exec_wellFormed hi { s.popGrant with pending := before ++ after }
  obtain ⟨hpending, hreset, -, hhistory, hrefusals, -, -⟩ := exec_frame hv
  have hengine := exec_engine_of_not_frame hv (ne_frameInstr_of_decodeRequest hq)
  refine ⟨_, step_of_instruction (fetch_of_requester h hs hbefore hq) hv, hpending, hreset, hrefusals, hengine, ?_⟩
  simp [hhistory]

/-- Well-formed transactions alone: each step serves one, so as many steps as there are transactions serve them all. -/
theorem run_serves_all (n : Nat) {s : State} (hn : s.pending.length = n) (hreset : s.resetAsserted = false)
    (hbusy : s.engineBusy = false)
    (hlegal : ∀ x ∈ s.pending, ∃ i : Instr, decodeRequest x.2 = .ok i ∧ i.wellFormed = true) :
    ∃ t : State, Host.Core.run core n s = .next t ∧ t.over ∧ t.refusals = s.refusals ∧
      t.history.length = s.history.length + n := by
  induction n generalizing s with
  | zero => exact ⟨s, rfl, List.length_eq_zero_iff.mp hn, rfl, rfl⟩
  | succ n ih =>
    obtain ⟨r, hr⟩ := exists_arbitrate_requester hreset hbusy (List.ne_nil_of_length_eq_add_one hn)
    obtain ⟨q, before, after, hs, hbefore⟩ := exists_split_of_arbitrate hr
    obtain ⟨i, hq, hi⟩ := hlegal (r, q) (by simp [hs])
    obtain ⟨t, ht, htpending, htreset, htrefusals, htengine, hthistory⟩ :=
      step_serves_requester hr hs hbefore hq hi
    have htbusy : t.engineBusy = false := by
      rw [State.engineBusy, htengine]
      exact hbusy
    have htn : t.pending.length = n := by
      rw [hs, List.length_append, List.length_cons] at hn
      rw [htpending, List.length_append]
      omega
    have htlegal (x : Nat × Request) (hx : x ∈ t.pending) :
        ∃ i : Instr, decodeRequest x.2 = .ok i ∧ i.wellFormed = true := by
      refine hlegal x ?_
      rw [htpending, List.mem_append] at hx
      rw [hs, List.mem_append, List.mem_cons]
      tauto
    obtain ⟨u, hu, huover, hurefusals, huhistory⟩ := ih htn (htreset.trans hreset) htbusy htlegal
    exact ⟨u, (run_succ ht n).trans hu, huover, hurefusals.trans htrefusals, by omega⟩

/-- A requester's transactions are read off the queue alone. -/
theorem pendingOf_congr {s t : State} (h : t.pending = s.pending) (r : Nat) : t.pendingOf r = s.pendingOf r := by
  rw [State.pendingOf, State.pendingOf, h]

/-- What becomes of a refused agent is settled by whose turn it was and why (R176). -/
theorem afterRefusal_of_refused {s : State} {a : Agent} {e : Refusal} (ha : s.arbitrate = some a)
    (h : step s = .refused e) : s.afterRefusal = s.afterRefusalOf a e := by
  simp [State.afterRefusal, ha, h]

end Sys2Proof.Machine

open Sys2Proof Sys2Proof.Machine

/-- Settles O44: the place a step adds is explained by the counter the order before it left. -/
theorem stepKeepsLinearOrder : Obligations.StepKeepsLinearOrder :=
  fun _ _ => step_keeps_linear

/-- Settles O42: the two cases of a step, without the explanation of the result. -/
theorem stepServesAtMostOne : Obligations.StepServesAtMostOne := by
  intro s t h
  obtain hsame | ⟨e, hhistory, hc, -⟩ := step_history h
  · exact .inl hsame
  · exact .inr ⟨e, hhistory, hc⟩

/-- Settles O43: only the fetch of a requester's transaction writes the queue, and it takes that requester's
oldest. -/
theorem programOrderKept : Obligations.ProgramOrderKept := by
  intro s t h
  obtain ⟨-, rfl⟩ | hf | ⟨a, i, u, v, hf, hx, rfl⟩ := step_next_cases h
  · exact .inl fun _ => rfl
  · obtain ⟨-, rfl⟩ | ⟨-, -, -, hpending, -⟩ := fetch_internal_cases hf
    · exact .inl fun _ => rfl
    · exact .inl (pendingOf_congr hpending)
  · obtain ⟨hvpending, -, -, hvhistory, -⟩ := exec_frame hx
    obtain ⟨-, -, htpending, -, -, hthistory, -⟩ := complete_frame v a i
    obtain ⟨r, q, before, after, rfl, -, hq, hs, hbefore, rfl⟩ | ⟨-, -, rx, rfl⟩ := fetch_instruction_cases hf
    · obtain ⟨hown, hothers⟩ := pendingOf_of_split hs hbefore (htpending.trans hvpending)
      exact .inr ⟨r, q, i, v.result, hq, hown, hothers, by rw [hthistory, hvhistory]; rfl⟩
    · exact .inl (pendingOf_congr (htpending.trans hvpending))

/-- Settles O45: by induction on the number of waiting transactions. -/
theorem everyTransactionServed : Obligations.EveryTransactionServed :=
  fun _ => run_serves_all _ rfl

/-- Settles O40: what a refusal leaves is settled by whose turn it was: a requester's oldest transaction, a concurrent
call, or the engine's own call. -/
theorem refusalLeavesBlockAlone : Obligations.RefusalLeavesBlockAlone := by
  rintro s t a e ha h rfl
  rw [afterRefusal_of_refused ha h]
  obtain ⟨hturn, hoverlap, rfl⟩ | ⟨⟨hturn, hoverlap⟩, rfl⟩ | ⟨r, q, rest, hturn, htake⟩ := step_refused_cases h
  · cases ha.symm.trans hturn
    obtain ⟨k, ks, hks⟩ := List.exists_cons_of_ne_nil hoverlap
    exact ⟨rfl, rfl, rfl, rfl, rfl, rfl, rfl, nofun,
      fun _ => ⟨rfl, .inl ⟨rfl, k, ks, hks, by simp [State.afterRefusalOf, Engine.dropRefused, hks]⟩⟩⟩
  · cases ha.symm.trans hturn
    exact ⟨rfl, rfl, rfl, rfl, rfl, rfl, rfl, nofun,
      fun _ => ⟨rfl, .inr ⟨rfl, by simp [State.afterRefusalOf, Engine.dropRefused, hoverlap, Engine.finish]⟩⟩⟩
  · cases ha.symm.trans hturn
    obtain ⟨before, after, hs, hbefore, rfl⟩ := takePending_eq_some htake
    have hafter : s.afterRefusalOf (.requester r) e =
        { s.popGrant.markRefused (.requester r) e with pending := before ++ after } := by
      simp [State.afterRefusalOf, htake]
    rw [hafter]
    refine ⟨rfl, rfl, rfl, rfl, rfl, rfl, rfl, ?_, nofun⟩
    rintro _ ⟨⟩
    obtain ⟨hown, hothers⟩ := pendingOf_of_split
      (t := { s.popGrant.markRefused (.requester r) e with pending := before ++ after }) hs hbefore rfl
    exact ⟨rfl, ⟨q, hown⟩, hothers⟩

/-- Settles O2: the reset line's turn is the RESET event. -/
theorem resetEventClearsOnlyCounter : Obligations.ResetEventClearsOnlyCounter :=
  fun _ h => step_of_internal (fetch_of_arbitrate h)

/-- Settles O37: the requester's turn runs its oldest transaction and records it. -/
theorem stepRunsPresentedTransaction : Obligations.StepRunsPresentedTransaction := by
  intro s r q before after i h hs hbefore hq
  rw [step, fetch_of_requester h hs hbefore hq]
  rfl

/-- Settles O39: the requester's turn finds no instruction in its oldest transaction. -/
theorem reservedOperationRefused : Obligations.ReservedOperationRefused := by
  intro s r q before after h hs hbefore hop
  rw [step, fetch_of_requester_rejected h hs hbefore (decodeRequest_reserved hop)]

/-- Settles O41: each of the three conditions makes its agent ready, and the next grant decides for it. -/
theorem anyReadyAgentMayBeNext : Obligations.AnyReadyAgentMayBeNext := by
  intro s a gs h
  refine arbitrate_of_granted rfl ?_
  obtain ⟨rfl, hreset⟩ | ⟨r, rfl, hpending⟩ | ⟨rfl, hbusy⟩ := h
  · exact hreset
  · exact ready_requester_iff.mpr hpending
  · exact engineBusy_iff.mpr hbusy

/-- Settles O46: in a quiet state nobody acts. -/
theorem passiveWhenIdle : Obligations.PassiveWhenIdle := by
  intro s h
  rw [step, State.fetch, arbitrate_of_quiet h]

/-- Settles O60: the empty history explains the counter 0, no call runs, and nothing has been written. -/
theorem resetMeetsInvariants : Obligations.ResetMeetsInvariants :=
  ⟨⟨trivial, rfl⟩, trivial, nofun⟩

end

section
/-! The received frame in and outside the retry loop, and the cost of an attempt (R143 to R151). -/

namespace Sys2Proof.Machine

/-- The last attempt ends the call (R150). -/
theorem spendAttempt_of_le_one (s : State) {w : Waiting} (h : w.attempts ≤ 1) :
    s.spendAttempt w = s.finishCall (.failed (.responseTimeout w.notify s.engine.maxRetries)) :=
  if_pos h

/-- Any other attempt leaves one less and counts one more wait (R143, R160). -/
theorem spendAttempt_of_two_le (s : State) {w : Waiting} (h : 2 ≤ w.attempts) :
    s.spendAttempt w = s.setPhase (.receiving { w with
      attempts := w.attempts - 1, waited := w.waited + (s.engine.readTimeout + s.engine.retryDelay) }) :=
  if_neg (by omega)

/-- A packet of another sequence is skipped (R146). -/
theorem judgePacket_of_ne (s : State) {w : Waiting} {p : Packet} (h : p.sequence ≠ w.expected) :
    s.judgePacket w p = s.spendAttempt w :=
  if_pos h

/-- A `Notify` packet of the expected sequence is counted (R147). -/
theorem judgePacket_notify (s : State) (w : Waiting) (payload : Bytes) :
    s.judgePacket w ⟨.notify, w.expected, payload⟩ = s.spendAttempt { w with notify := w.notify + 1 } := by
  simp [State.judgePacket]

/-- A `Request` packet of the expected sequence is a protocol violation (R149). -/
theorem judgePacket_request (s : State) (w : Waiting) (payload : Bytes) :
    s.judgePacket w ⟨.request, w.expected, payload⟩ = s.finishCall (.failed .protocolViolation) := by
  simp [State.judgePacket]

/-- A frame received in the retry loop is judged with its packet on the result ports (R143, R145). -/
theorem exec_frameInstr_receiving {s : State} {w : Waiting} (hw : s.engine.phase = .receiving w) (p : Packet) :
    exec (frameInstr p) s = .next ((s.deliverPacket p).judgePacket w p) := by
  rw [exec_frameInstr, receiveFrame_receiving hw]

end Sys2Proof.Machine

open Sys2Proof Sys2Proof.Machine

/-- Settles O52: the sequence is compared before the type is looked at. -/
theorem mismatchedFrameSkipped : Obligations.MismatchedFrameSkipped := by
  intro s w p hw hsequence
  rw [exec_frameInstr_receiving hw, judgePacket_of_ne _ hsequence]
  refine ⟨fun hattempts => ?_, fun hattempts => ?_⟩
  · rw [spendAttempt_of_two_le _ hattempts]
    rfl
  · rw [spendAttempt_of_le_one _ hattempts]
    rfl

/-- Settles O53: a notification spends an attempt with its count raised; of another sequence, with its count as it
was. -/
theorem notifyFrameAbsorbed : Obligations.NotifyFrameAbsorbed := by
  intro s w payload hw
  have hexec (q : Byte) := exec_frameInstr_receiving hw ⟨.notify, q, payload⟩
  simp only [frameInstr] at hexec
  refine ⟨fun hattempts => ?_, fun hattempts => ?_, fun q hq hattempts => ?_⟩
  · rw [hexec, judgePacket_notify, spendAttempt_of_two_le _ (w := { w with notify := w.notify + 1 }) hattempts]
    rfl
  · rw [hexec, judgePacket_notify, spendAttempt_of_le_one _ (w := { w with notify := w.notify + 1 }) hattempts]
    rfl
  · rw [hexec, judgePacket_of_ne _ hq, spendAttempt_of_two_le _ hattempts]
    exact ⟨_, _, rfl, rfl, rfl⟩

/-- Settles O55: the fourth branch of the judgement; and the type byte of an accepted buffer is a packet type's. -/
theorem requestFrameIsViolation : Obligations.RequestFrameIsViolation := by
  refine ⟨fun s w payload hw => ?_, fun B i hi => ?_⟩
  · have hexec := exec_frameInstr_receiving hw ⟨.request, w.expected, payload⟩
    rw [judgePacket_request] at hexec
    exact hexec
  · obtain ⟨p, hp, -⟩ := decode_frame_eq_ok_iff.mp hi
    obtain ⟨-, -, -, -, -, htype, -⟩ := (decodeFrame_eq_ok_iff B p).mp hp
    exact mem_typeCodes_iff.mpr ⟨p.type, htype⟩

/-- Settles O56: only the result ports are written. -/
theorem frameOutsideLoopIgnored : Obligations.FrameOutsideLoopIgnored := by
  intro s p hphase
  rw [exec_frameInstr, State.receiveFrame, hostReceives_other (s := s.deliverPacket p) hphase]
  rfl

end

section
/-! The engine's turn: one equation of the step for each stage of a call (R138 to R144, R152, R162, R163). -/

namespace Sys2Proof.Machine

/-- While a concurrent call waits to be refused, the engine's turn is its refusal (R162). -/
theorem step_of_overlapping {s : State} (ha : s.arbitrate = some .engine) (ho : s.engine.overlapping ≠ []) :
    step s = .refused .concurrentCall := by
  obtain ⟨k, ks, hks⟩ := List.exists_cons_of_ne_nil ho
  rw [step, fetch_of_arbitrate ha, State.fetchFor, State.fetchEngine, popGrant_engine, hks]

/-- A `send_command` made of a busy engine is one to be refused (R162). -/
theorem takeCall_of_busy {e : Engine} (h : e.phase ≠ .idle ∨ e.calls ≠ []) (payload : Bytes) (wait : Bool) :
    (e.takeCall (.sendCommand payload wait)).overlapping = e.overlapping ++ [.sendCommand payload wait] := by
  rw [Engine.takeCall, if_neg (by tauto)]

/-- With no call running, the engine begins the next one. -/
theorem step_of_idle {s : State} {k : HostCall} {ks : List HostCall} (h : s.engineMoves)
    (hphase : s.engine.phase = .idle) (hcalls : s.engine.calls = k :: ks) :
    step s = .next ((s.popGrant.setCalls ks).beginCall k) := by
  refine step_of_internal ?_
  simp only [fetch_of_engineMoves h, State.fetchMove, popGrant_engine, hphase, hcalls]

/-- With no call running and none waiting, the step does nothing. -/
theorem step_of_no_call {s : State} (h : s.engineMoves) (hphase : s.engine.phase = .idle)
    (hcalls : s.engine.calls = []) : step s = .next s := by
  simp only [step, fetch_of_engineMoves h, State.fetchMove, popGrant_engine, hphase, hcalls]

/-- Step 2 of a call: the identifier is allocated (R141). -/
theorem step_of_called {s : State} {payload : Bytes} {wait : Bool} (h : s.engineMoves)
    (hphase : s.engine.phase = .called payload wait) :
    step s = .next ((((s.popGrant.setCounter (s.block.c + 1)).setResult (.value s.block.c)).record .engine
      .seqNext).setPhase (.allocated s.block.c payload wait)) := by
  have hf : s.fetch = .instruction .engine .seqNext s.popGrant := by
    simp only [fetch_of_engineMoves h, State.fetchMove, popGrant_engine, hphase]
  rw [step_of_instruction hf (exec_seqNext _)]
  simp [State.complete, State.continueCall, hphase]

/-- The transaction of step 3 of a call (R141). -/
theorem fetch_of_allocated {s : State} {seq : Byte} {payload : Bytes} {wait : Bool} (h : s.engineMoves)
    (hphase : s.engine.phase = .allocated seq payload wait) :
    s.fetch = .instruction .engine (.encode 0x30 seq payload) s.popGrant := by
  simp only [fetch_of_engineMoves h, State.fetchMove, popGrant_engine, hphase]

/-- Step 3 of a call: the request is encoded (R141). -/
theorem step_of_allocated {s : State} {seq : Byte} {payload : Bytes} {wait : Bool} (h : s.engineMoves)
    (hphase : s.engine.phase = .allocated seq payload wait) (hfits : payload.length ≤ 65535) :
    step s = .next (((s.popGrant.setResult (.frame (encodeFrame ⟨.request, seq, payload⟩))).record .engine
      (.encode 0x30 seq payload)).setPhase (.encoded seq (encodeFrame ⟨.request, seq, payload⟩) wait)) := by
  rw [step_of_instruction (fetch_of_allocated h hphase) (execEncode_wire .request seq payload _ hfits)]
  simp [State.complete, State.continueCall, hphase]

/-- Step 3 of a call with a payload too long is refused (R92). -/
theorem step_of_allocated_long {s : State} {seq : Byte} {payload : Bytes} {wait : Bool} (h : s.engineMoves)
    (hphase : s.engine.phase = .allocated seq payload wait) (hlong : 65535 < payload.length) :
    step s = .refused .illFormedPacket := by
  rw [step, fetch_of_allocated h hphase]
  simp only [exec_encode_illFormed (.inr hlong)]

/-- The rest of step 3: the frame is written (R141). -/
theorem step_of_encoded {s : State} {seq : Byte} {F : Bytes} {wait : Bool} (h : s.engineMoves)
    (hphase : s.engine.phase = .encoded seq F wait) : step s = .next (s.popGrant.transmit seq F wait) := by
  refine step_of_internal ?_
  simp only [fetch_of_engineMoves h, State.fetchMove, popGrant_engine, hphase]

/-- Step 5 of a call reads the transport (R143). -/
theorem fetch_of_receiving {s : State} {w : Waiting} (h : s.engineMoves) (hw : s.engine.phase = .receiving w) :
    s.fetch = s.popGrant.fetchFrame := by
  simp only [fetch_of_engineMoves h, State.fetchMove, popGrant_engine, hw]

/-- A silent read, or one beyond the listed input (R144). -/
theorem step_of_silence {s : State} {w : Waiting} {rest : List ReadItem} (h : s.engineMoves)
    (hw : s.engine.phase = .receiving w) (hrx : s.line.rx = .silence :: rest ∨ s.line.rx = [] ∧ rest = []) :
    step s = .next ((s.popGrant.setRx rest).spendAttempt w) := by
  refine step_of_internal ?_
  obtain hrx | ⟨hrx, rfl⟩ := hrx
  · simp only [fetch_of_receiving h hw, State.fetchFrame, popGrant_line, hrx]
    exact congrArg _ (noUsableFrame_receiving hw)
  · have hsame : s.popGrant.setRx [] = s.popGrant := by
      rw [State.setRx, popGrant_line, ← hrx]
      rfl
    simp only [fetch_of_receiving h hw, State.fetchFrame, popGrant_line, hrx, hsame]
    exact congrArg _ (noUsableFrame_receiving hw)

/-- A failing read ends the call (R163). -/
theorem step_of_readError {s : State} {w : Waiting} {rest : List ReadItem} (h : s.engineMoves)
    (hw : s.engine.phase = .receiving w) (hrx : s.line.rx = .readError :: rest) :
    step s = .next (s.popGrant.setRx rest).failTransport := by
  refine step_of_internal ?_
  simp only [fetch_of_receiving h hw, State.fetchFrame, popGrant_line, hrx]

/-- A buffer that is no frame is a failing `DECODE`, and costs an attempt (R144). -/
theorem step_of_rejected_buffer {s : State} {w : Waiting} {B : Bytes} {k : DecodeFailure} {rest : List ReadItem}
    (h : s.engineMoves) (hw : s.engine.phase = .receiving w) (hrx : s.line.rx = .buffer B :: rest)
    (hB : decodeFrame B = .fail k) :
    step s = .next ((((s.popGrant.setRx rest).setResult (.decoded (.fail k))).record .engine
      (.decode B)).spendAttempt w) := by
  have hf : s.fetch = .instruction .engine (.decode B) (s.popGrant.setRx rest) := by
    simp only [fetch_of_receiving h hw, State.fetchFrame, popGrant_line, hrx, decodeBuffer, hB]
  rw [step_of_instruction hf (execDecode_eq B _), hB]
  simp [State.complete, State.continueCall, hw, noUsableFrame_receiving]

/-- A result that is a packet asks nothing more of the engine: it was handed the packet already. -/
theorem continueCall_of_packet {s : State} {p : Packet} (h : s.result = .decoded (.ok p)) : s.continueCall = s := by
  unfold State.continueCall
  split <;> simp_all

/-- The transaction of a buffer that is a frame is its own row (R70). -/
theorem fetch_of_frame {s : State} {w : Waiting} {B : Bytes} {p : Packet} {rest : List ReadItem} (h : s.engineMoves)
    (hw : s.engine.phase = .receiving w) (hrx : s.line.rx = .buffer B :: rest) (hB : decodeFrame B = .ok p) :
    s.fetch = .instruction .engine (frameInstr p) (s.popGrant.setRx rest) := by
  simp only [fetch_of_receiving h hw, State.fetchFrame, popGrant_line, hrx, decodeBuffer, hB]

/-- A buffer that is a frame is received and recorded (R145). -/
theorem step_of_frame {s : State} {w : Waiting} {B : Bytes} {p : Packet} {rest : List ReadItem} (h : s.engineMoves)
    (hw : s.engine.phase = .receiving w) (hrx : s.line.rx = .buffer B :: rest) (hB : decodeFrame B = .ok p) :
    step s = .next (((s.popGrant.setRx rest).receiveFrame p).record .engine (frameInstr p)) := by
  rw [step_of_instruction (fetch_of_frame h hw hrx hB) (exec_frameInstr p _), State.complete,
    continueCall_of_packet (p := p) (by simp)]

/-- A call that ends when none runs leaves the phase as it is. -/
theorem finishCall_of_idle {s : State} (h : s.engine.phase = .idle) (r : CallResult) :
    s.finishCall r = { s with engine := { s.engine with answers := s.engine.answers ++ [r] } } := by
  rw [State.finishCall, Engine.finish, ← h]

/-- A failing write (R141). -/
theorem transmit_of_error {s : State} (h : s.line.writeAnswer = .error) (seq : Byte) (F : Bytes) (wait : Bool) :
    s.transmit seq F wait = s.written.failTransport := by
  rw [State.transmit, h]

/-- A written request without a wait (R141 step 4). -/
theorem transmit_of_no_wait {s : State} (h : s.line.writeAnswer = .ok) (seq : Byte) (F : Bytes) :
    s.transmit seq F false = (s.written.transmitted F).finishCall .done := by
  simp [State.transmit, h]

/-- A written request with no budget to wait (R143). -/
theorem transmit_of_no_budget {s : State} (h : s.line.writeAnswer = .ok) (hbudget : s.engine.maxRetries = 0)
    (seq : Byte) (F : Bytes) :
    s.transmit seq F true = (s.written.transmitted F).finishCall (.failed (.responseTimeout 0 0)) := by
  simp [State.transmit, h, hbudget]

/-- A written request whose retry loop begins (R142). -/
theorem transmit_of_budget {s : State} (h : s.line.writeAnswer = .ok) (hbudget : 1 ≤ s.engine.maxRetries)
    (seq : Byte) (F : Bytes) :
    s.transmit seq F true = (s.written.transmitted F).setPhase (.receiving ⟨seq, s.engine.maxRetries, 0, 0⟩) := by
  simp [State.transmit, h, Nat.one_le_iff_ne_zero.mp hbudget]

/-- A successful write puts the frame on the transport, whatever becomes of the call (R42). -/
theorem transmit_line {s : State} (h : s.line.writeAnswer = .ok) (seq : Byte) (F : Bytes) (wait : Bool) :
    (s.transmit seq F wait).line = { s.line with writes := s.line.writes.tail, tx := s.line.tx ++ [F] } := by
  cases wait with
  | false => rw [transmit_of_no_wait h]; rfl
  | true =>
    obtain hbudget | hbudget := Nat.eq_zero_or_pos s.engine.maxRetries
    · rw [transmit_of_no_budget h hbudget]; rfl
    · rw [transmit_of_budget h hbudget]; rfl

end Sys2Proof.Machine

open Sys2Proof Sys2Proof.Machine

/-- Settles O38: the row of the frame is run on the transport without the buffer, and recorded. -/
theorem stepRunsReceivedFrame : Obligations.StepRunsReceivedFrame := by
  intro s w B rest i h hw hrx hi
  obtain ⟨p, hB, rfl⟩ := decode_frame_eq_ok_iff.mp hi
  exact ⟨_, exec_frameInstr p _, step_of_frame h hw hrx hB⟩

/-- Settles O47: each call begins and ends in one step, the open's answer deciding `connect`. -/
theorem connectionCalls : Obligations.ConnectionCalls := by
  intro s k ks h hphase hcalls
  rw [step_of_idle h hphase hcalls]
  refine ⟨?_, ?_, ?_, ?_⟩
  · rintro rfl hopen
    simp [State.beginCall, State.connect, hopen, finishCall_of_idle, hphase]
  · rintro rfl hopen
    simp [State.beginCall, State.connect, hopen, finishCall_of_idle, hphase]
  · rintro rfl
    simp [State.beginCall, finishCall_of_idle, hphase]
  · rintro rfl
    simp [State.beginCall, finishCall_of_idle, hphase]

/-- Settles O48: the refusal beside another call, and the first three stages of a call. -/
theorem sendCommandAllocatesThenEncodes : Obligations.SendCommandAllocatesThenEncodes := by
  refine ⟨fun s payload wait hbusy hturn => ?_, fun s payload wait ks h hphase hcalls => ?_,
    fun s payload wait h hphase => ⟨_, step_of_called h hphase, rfl, rfl, rfl⟩,
    fun s seq payload wait h hphase => ⟨fun hfits => ⟨_, _, rfl, step_of_allocated h hphase hfits, rfl, rfl, rfl⟩,
      step_of_allocated_long h hphase⟩⟩
  · refine step_of_overlapping hturn ?_
    rw [call_engine, takeCall_of_busy hbusy]
    exact List.concat_ne_nil _ _
  · refine ⟨_, step_of_idle h hphase hcalls, by simp, by simp, fun hclosed => ?_, fun hopen => ?_⟩
    · simp [State.beginCall, hclosed]
    · simp [State.beginCall, hopen]

/-- Settles O49: the write's answer, the wait and the budget decide, one clause for each. -/
theorem sendCommandTransmits : Obligations.SendCommandTransmits := by
  intro s seq F wait h hphase
  refine ⟨_, step_of_encoded h hphase, by simp, fun herror => ?_, fun hok => transmit_line (s := s.popGrant) hok ..,
    ?_, ?_, ?_⟩
  · rw [transmit_of_error (s := s.popGrant) herror]
    exact ⟨rfl, rfl, rfl⟩
  · rintro hok rfl
    rw [transmit_of_no_wait (s := s.popGrant) hok]
    exact ⟨rfl, rfl⟩
  · rintro hok rfl hbudget
    rw [transmit_of_budget (s := s.popGrant) hok hbudget]
    exact ⟨rfl, rfl⟩
  · rintro hok rfl hbudget
    rw [transmit_of_no_budget (s := s.popGrant) hok hbudget]
    exact ⟨rfl, rfl⟩

/-- Settles O51: the failing read's own equation of the step. -/
theorem readErrorIsFatal : Obligations.ReadErrorIsFatal :=
  fun _ _ _ h hw hrx => step_of_readError h hw hrx

end

section
/-! The retry loop, one read at a time: what a read makes of the call, and the loop's bound (R143 to R151). -/

namespace Sys2Proof.Machine

/-- What the coming read of the transport yields; silence beyond the listed input (notes/assumptions/14.md). -/
def Line.nextRead (l : Line) : ReadItem := l.rx.headD .silence

/-- What one read makes of the call in its retry loop: branches a to e, or the failure of the transport (R143 to R149,
R163). -/
def State.afterRead (s : State) (w : Waiting) : ReadItem → State
  | .silence => s.spendAttempt w
  | .readError => s.failTransport
  | .buffer B =>
    match decodeFrame B with
    | .ok p => s.judgePacket w p
    | .fail _ => s.spendAttempt w

theorem afterRead_of_rejected (s : State) (w : Waiting) {B : Bytes} {k : DecodeFailure} (h : decodeFrame B = .fail k) :
    s.afterRead w (.buffer B) = s.spendAttempt w := by
  simp only [State.afterRead, h]

theorem afterRead_of_frame (s : State) (w : Waiting) {B : Bytes} {p : Packet} (h : decodeFrame B = .ok p) :
    s.afterRead w (.buffer B) = s.judgePacket w p := by
  simp only [State.afterRead, h]

/-- A read ends the call with an answer, releases the transport too, or spends an attempt, with at most one
notification counted. -/
theorem afterRead_cases (s : State) (w : Waiting) (x : ReadItem) :
    (∃ r, s.afterRead w x = s.finishCall r) ∨ s.afterRead w x = s.failTransport ∨
    ∃ n ≤ 1, s.afterRead w x = s.spendAttempt { w with notify := w.notify + n } := by
  cases x with
  | silence => exact .inr (.inr ⟨0, Nat.zero_le 1, rfl⟩)
  | readError => exact .inr (.inl rfl)
  | buffer B =>
    cases hB : decodeFrame B with
    | fail k =>
      rw [afterRead_of_rejected s w hB]
      exact .inr (.inr ⟨0, Nat.zero_le 1, rfl⟩)
    | ok p =>
      rw [afterRead_of_frame s w hB]
      obtain ⟨-, hj⟩ | ⟨-, -, hj⟩ | ⟨-, -, hj⟩ | ⟨-, -, hj⟩ := judgePacket_cases s w p <;> rw [hj]
      · exact .inr (.inr ⟨0, Nat.zero_le 1, rfl⟩)
      · exact .inr (.inr ⟨1, le_rfl, rfl⟩)
      · exact .inl ⟨_, rfl⟩
      · exact .inl ⟨_, rfl⟩

/-- A read that is not final spends an attempt; a notification of the expected sequence is counted (R144, R146,
R147). -/
theorem afterRead_of_not_final (s : State) {w : Waiting} {x : ReadItem} (hx : x.final w.expected = false) :
    s.afterRead w x =
      s.spendAttempt { w with notify := w.notify + if x.carries w.expected [.notify] then 1 else 0 } := by
  cases x with
  | silence => rfl
  | readError => cases hx
  | buffer B =>
    cases hB : decodeFrame B with
    | fail k => simp [afterRead_of_rejected s w hB, ReadItem.carries, hB]
    | ok p =>
      rw [afterRead_of_frame s w hB]
      obtain ⟨hsequence, hj⟩ | ⟨hsequence, htype, hj⟩ | ⟨hsequence, htype, -⟩ | ⟨hsequence, htype, -⟩ :=
        judgePacket_cases s w p
      · simp [hj, ReadItem.carries, hB, hsequence]
      · simp [hj, ReadItem.carries, hB, hsequence, htype]
      · simp [ReadItem.final, ReadItem.carries, hB, hsequence, htype] at hx
      · simp [ReadItem.final, ReadItem.carries, hB, hsequence, htype] at hx

/-- On the last attempt such a read is the exhaustion of the budget (R150). -/
theorem afterRead_engine_of_last (s : State) {w : Waiting} {x : ReadItem} (hx : x.final w.expected = false)
    (hw : w.attempts ≤ 1) :
    (s.afterRead w x).engine = { s.engine with
      phase := .idle
      answers := s.engine.answers ++ [.failed (.responseTimeout
        (w.notify + if x.carries w.expected [.notify] then 1 else 0) s.engine.maxRetries)] } := by
  rw [afterRead_of_not_final s hx]
  exact congrArg State.engine (spendAttempt_of_le_one s (by exact hw))

/-- Before the last attempt the loop goes on with one less (R143). -/
theorem afterRead_engine_of_more (s : State) {w : Waiting} {x : ReadItem} (hx : x.final w.expected = false)
    (hw : 2 ≤ w.attempts) :
    ∃ w', w'.expected = w.expected ∧ w'.attempts + 1 = w.attempts ∧
      w'.notify = w.notify + (if x.carries w.expected [.notify] then 1 else 0) ∧
      (s.afterRead w x).engine = { s.engine with phase := .receiving w' } := by
  have hspend := spendAttempt_of_two_le s
    (w := { w with notify := w.notify + if x.carries w.expected [.notify] then 1 else 0 }) hw
  rw [afterRead_of_not_final s hx, hspend]
  refine ⟨_, ?_, ?_, ?_, rfl⟩
  · rfl
  · exact Nat.sub_add_cancel (one_le_two.trans hw)
  · rfl

/-- What a read makes of the engine depends on the engine alone. -/
theorem afterRead_engine_congr {s u : State} (h : u.engine = s.engine) (w : Waiting) (x : ReadItem) :
    (u.afterRead w x).engine = (s.afterRead w x).engine := by
  have hspend (w : Waiting) : (u.spendAttempt w).engine = (s.spendAttempt w).engine := by
    unfold State.spendAttempt
    split_ifs <;> simp [h]
  cases x with
  | silence => exact hspend w
  | readError => simp [State.afterRead, h]
  | buffer B =>
    cases hB : decodeFrame B with
    | fail k => rw [afterRead_of_rejected u w hB, afterRead_of_rejected s w hB, hspend]
    | ok p =>
      rw [afterRead_of_frame u w hB, afterRead_of_frame s w hB]
      unfold State.judgePacket
      split_ifs
      · exact hspend w
      · cases p.type <;> simp [h, hspend]

/-- What a read makes of the transport does not depend on the reads after it. -/
theorem afterRead_line_congr {s u : State} {rx : List ReadItem} (h : u.line = { s.line with rx := rx }) (w : Waiting)
    (x : ReadItem) : (u.afterRead w x).line = { (s.afterRead w x).line with rx := rx } := by
  cases x with
  | silence => simp [State.afterRead, h]
  | readError => simp [State.afterRead, h]
  | buffer B =>
    cases hB : decodeFrame B with
    | fail k => simp [afterRead_of_rejected _ w hB, h]
    | ok p => simp [afterRead_of_frame _ w hB, h]

/-- A read leaves the engine's configuration and its refused calls alone, and nothing is written by it. -/
theorem afterRead_frame (s : State) (w : Waiting) (x : ReadItem) :
    (s.afterRead w x).engine.overlapping = s.engine.overlapping ∧
      (s.afterRead w x).engine.maxRetries = s.engine.maxRetries ∧ (s.afterRead w x).line.tx = s.line.tx := by
  obtain ⟨r, h⟩ | h | ⟨n, -, h⟩ := afterRead_cases s w x <;> rw [h] <;> simp

/-- A read ends the call with one answer, or the call goes on with one attempt less. -/
theorem afterRead_engine_cases (s : State) (w : Waiting) (x : ReadItem) :
    (∃ r, (s.afterRead w x).engine = { s.engine with phase := .idle, answers := s.engine.answers ++ [r] }) ∨
    (2 ≤ w.attempts ∧ ∃ w', w'.attempts + 1 = w.attempts ∧
      (s.afterRead w x).engine = { s.engine with phase := .receiving w' }) := by
  obtain ⟨r, h⟩ | h | ⟨n, -, h⟩ := afterRead_cases s w x <;> rw [h]
  · exact .inl ⟨r, rfl⟩
  · exact .inl ⟨_, rfl⟩
  · obtain ⟨-, hspend⟩ | ⟨hattempts, hspend⟩ := spendAttempt_cases s { w with notify := w.notify + n } <;> rw [hspend]
    · exact .inl ⟨_, rfl⟩
    · exact .inr ⟨hattempts, _, Nat.sub_add_cancel (by omega), rfl⟩

/-- The engine's turn in its retry loop is one read, judged in a state `u` that differs from `s` only in what is no part
of the engine and in the reads still to come. -/
theorem exists_step_afterRead {s : State} {w : Waiting} (h : s.engineMoves) (hw : s.engine.phase = .receiving w) :
    ∃ t u : State, step s = .next t ∧ u.engine = s.engine ∧ u.line = { s.line with rx := s.line.rx.tail } ∧
      t.engine = (u.afterRead w s.line.nextRead).engine ∧ t.line = (u.afterRead w s.line.nextRead).line ∧
      t.block = s.block ∧ t.pending = s.pending ∧ t.resetAsserted = s.resetAsserted := by
  cases hrx : s.line.rx with
  | nil =>
    rw [step_of_silence h hw (.inr ⟨hrx, rfl⟩), show s.line.nextRead = .silence by simp [Line.nextRead, hrx]]
    exact ⟨_, s.popGrant.setRx [], rfl, rfl, rfl, rfl, rfl, by simp⟩
  | cons x rest =>
    rw [show s.line.nextRead = x by simp [Line.nextRead, hrx]]
    cases x with
    | silence =>
      rw [step_of_silence h hw (.inl hrx)]
      exact ⟨_, s.popGrant.setRx rest, rfl, rfl, rfl, rfl, rfl, by simp⟩
    | readError =>
      rw [step_of_readError h hw hrx]
      exact ⟨_, s.popGrant.setRx rest, rfl, rfl, rfl, rfl, rfl, by simp⟩
    | buffer B =>
      cases hB : decodeFrame B with
      | fail k =>
        rw [step_of_rejected_buffer h hw hrx hB]
        refine ⟨_, ((s.popGrant.setRx rest).setResult (.decoded (.fail k))).record .engine (.decode B), rfl, rfl, rfl,
          ?_, ?_, by simp⟩
        · rw [afterRead_of_rejected _ w hB]
        · rw [afterRead_of_rejected _ w hB]
      | ok p =>
        rw [step_of_frame h hw hrx hB, receiveFrame_receiving (by exact hw)]
        refine ⟨_, (s.popGrant.setRx rest).deliverPacket p, rfl, rfl, rfl, ?_, ?_, by simp⟩
        · rw [afterRead_of_frame _ w hB, record_engine]
        · rw [afterRead_of_frame _ w hB, record_line]

/-- The engine's turn in its retry loop is one read: the engine and the transport are what the read makes of them, and
the block and the command interface are left alone. -/
theorem exists_step_read {s : State} {w : Waiting} (h : s.engineMoves) (hw : s.engine.phase = .receiving w) :
    ∃ t, step s = .next t ∧ t.engine = (s.afterRead w s.line.nextRead).engine ∧
      t.line = { (s.afterRead w s.line.nextRead).line with rx := s.line.rx.tail } ∧ t.block = s.block ∧
      t.pending = s.pending ∧ t.resetAsserted = s.resetAsserted := by
  obtain ⟨t, u, ht, huengine, huline, htengine, htline, hblock, hpending, hreset⟩ := exists_step_afterRead h hw
  exact ⟨t, ht, htengine.trans (afterRead_engine_congr huengine w _),
    htline.trans (afterRead_line_congr huline w _), hblock, hpending, hreset⟩

/-- When only the engine has anything to do and a call runs, it is the engine's turn. -/
theorem engineMoves_of_engineAlone {s : State} (h : s.engineAlone) (hphase : s.engine.phase ≠ .idle) :
    s.engineMoves :=
  ⟨arbitrate_engineAlone h (engineBusy_iff.mpr (.inl hphase)), h.2.2⟩

/-- The same step, when only the engine has anything to do: so it is afterwards. -/
theorem exists_step_read_alone {s : State} {w : Waiting} (h : s.engineAlone) (hw : s.engine.phase = .receiving w) :
    ∃ t, step s = .next t ∧ t.engineAlone ∧ t.engine = (s.afterRead w s.line.nextRead).engine ∧
      t.line.rx = s.line.rx.tail ∧ t.block = s.block := by
  obtain ⟨t, ht, hengine, hline, hblock, hpending, hreset⟩ :=
    exists_step_read (engineMoves_of_engineAlone h (by simp [hw])) hw
  obtain ⟨hoverlap, -, -⟩ := afterRead_frame s w s.line.nextRead
  obtain ⟨hsp, hsr, hso⟩ := h
  exact ⟨t, ht, ⟨hpending.trans hsp, hreset.trans hsr, by rw [hengine, hoverlap, hso]⟩, hengine, by rw [hline], hblock⟩

/-- The coming read is among the reads listed, or silence. -/
theorem nextRead_not_final {l : Line} {n : Nat} {expected : Byte}
    (h : ∀ x ∈ l.rx.take (n + 1), x.final expected = false) : l.nextRead.final expected = false := by
  rw [Line.nextRead]
  cases hrx : l.rx with
  | nil => rfl
  | cons x rest => exact h x (by simp [hrx])

/-- The notifications among the coming reads are that of the next one and those after it. -/
theorem countP_take_reads (l : Line) (n : Nat) (expected : Byte) :
    (l.rx.take (n + 1)).countP (fun x => x.carries expected [.notify]) =
      (if l.nextRead.carries expected [.notify] then 1 else 0) +
        (l.rx.tail.take n).countP (fun x => x.carries expected [.notify]) := by
  rw [Line.nextRead]
  cases l.rx with
  | nil => simp [ReadItem.carries]
  | cons x rest => rw [List.take_succ_cons, List.countP_cons, Nat.add_comm, List.headD_cons, List.tail_cons]

/-- A loop whose reads, `n + 1` of them, bring no final answer runs out of its attempts (R150). -/
theorem run_exhausts (n : Nat) {s : State} {w : Waiting} (h : s.engineAlone) (hw : s.engine.phase = .receiving w)
    (hn : w.attempts = n + 1) (hreads : ∀ x ∈ s.line.rx.take (n + 1), x.final w.expected = false) :
    ∃ t : State, Host.Core.run core (n + 1) s = .next t ∧ t.engine.phase = .idle ∧
      t.line.rx = s.line.rx.drop (n + 1) ∧
      t.engine.answers = s.engine.answers ++ [.failed (.responseTimeout
        (w.notify + (s.line.rx.take (n + 1)).countP (fun x => x.carries w.expected [.notify]))
        s.engine.maxRetries)] := by
  induction n generalizing s w with
  | zero =>
    obtain ⟨t, ht, -, hengine, hrx, -⟩ := exists_step_read_alone h hw
    rw [afterRead_engine_of_last s (nextRead_not_final hreads) hn.le] at hengine
    refine ⟨t, run_succ ht 0, by rw [hengine], by rw [hrx, List.drop_one], ?_⟩
    rw [hengine, countP_take_reads, List.take_zero, List.countP_nil, Nat.add_zero]
  | succ n ih =>
    obtain ⟨t, ht, halone, hengine, hrx, -⟩ := exists_step_read_alone h hw
    obtain ⟨w', hexpected, hattempts, hnotify, hgo⟩ :=
      afterRead_engine_of_more s (nextRead_not_final hreads) (by omega)
    rw [hgo] at hengine
    have hrest (x : ReadItem) (hx : x ∈ t.line.rx.take (n + 1)) : x.final w'.expected = false := by
      rw [hrx] at hx
      rw [hexpected]
      refine hreads x ?_
      cases hs : s.line.rx with
      | nil => simp [hs] at hx
      | cons y rest => exact List.mem_cons_of_mem y (by simpa [hs] using hx)
    obtain ⟨u, hu, huphase, hurx, huanswers⟩ := ih halone (congrArg Engine.phase hengine) (by omega) hrest
    refine ⟨u, (run_succ ht _).trans hu, huphase, by rw [hurx, hrx, List.drop_tail], ?_⟩
    rw [huanswers, hengine, hrx, hexpected, hnotify, countP_take_reads s.line (n + 1), Nat.add_assoc]

/-- Whatever the reads yield, the loop ends within its attempts, with one answer (R151). -/
theorem run_ends_within (n : Nat) {s : State} {w : Waiting} (h : s.engineAlone) (hw : s.engine.phase = .receiving w)
    (hn : w.attempts = n) (hpos : 1 ≤ n) :
    ∃ k t, k ≤ n ∧ Host.Core.run core k s = .next t ∧ t.engine.phase = .idle ∧ t.block = s.block ∧
      t.engine.answers.length = s.engine.answers.length + 1 := by
  induction n generalizing s w with
  | zero => exact absurd hpos (by decide)
  | succ n ih =>
    obtain ⟨t, ht, halone, hengine, -, hblock⟩ := exists_step_read_alone h hw
    obtain ⟨r, hend⟩ | ⟨hattempts, w', hw', hgo⟩ := afterRead_engine_cases s w s.line.nextRead
    · rw [hend] at hengine
      exact ⟨1, t, by omega, run_succ ht 0, by rw [hengine], hblock, by simp [hengine]⟩
    · rw [hgo] at hengine
      obtain ⟨k, u, hk, hu, huphase, hublock, huanswers⟩ :=
        ih halone (w := w') (by rw [hengine]) (by omega) (by omega)
      refine ⟨k + 1, u, by omega, (run_succ ht k).trans hu, huphase, hublock.trans hblock, ?_⟩
      rw [huanswers, hengine]

end Sys2Proof.Machine

open Sys2Proof Sys2Proof.Machine

/-- Settles O50: each of the three reads spends an attempt and nothing else. -/
theorem noUsableFrameCostsOneAttempt : Obligations.NoUsableFrameCostsOneAttempt := by
  intro s w h hw hrx
  have hread : s.afterRead w s.line.nextRead = s.spendAttempt w := by
    obtain hrx | ⟨rest, hrx⟩ | ⟨B, k, rest, hrx, hB⟩ := hrx <;> rw [Line.nextRead, hrx]
    · rfl
    · rfl
    · exact afterRead_of_rejected s w hB
  obtain ⟨t, ht, hengine, hline, hblock, -, -⟩ := exists_step_read h hw
  rw [hread] at hengine hline
  refine ⟨t, ht, hblock, by simpa using hline, fun hattempts => ?_, fun hattempts => ?_⟩
  · rw [hengine, spendAttempt_of_two_le s hattempts, setPhase_engine]
  · rw [hengine, spendAttempt_of_le_one s hattempts, finishCall_engine]

/-- Settles O57: by induction on the attempts left. -/
theorem exhaustionIsResponseTimeout : Obligations.ExhaustionIsResponseTimeout := by
  intro s w h hw hpos hreads
  obtain ⟨n, hn⟩ := Nat.exists_eq_add_of_le' hpos
  rw [hn] at hreads ⊢
  exact run_exhausts n h hw hn hreads

/-- Settles O58: by induction on the attempts left, a read ending the loop or leaving one less. -/
theorem retryLoopIsBounded : Obligations.RetryLoopIsBounded :=
  fun _ w h hw hpos => run_ends_within w.attempts h hw rfl hpos

end

section
/-! What a `send_command` call promises at each of its stages, kept by every step (R141, R142, R151, R160). -/

namespace Sys2Proof.Machine

/-- A call promises nothing before it begins and after it ends. -/
theorem sessionOk_of_idle {s : State} (h : s.engine.phase = .idle) : s.SessionOk := by
  simp [State.SessionOk, h]

/-- The promises speak of the engine and of whether the transport is held. -/
theorem State.SessionOk.congr {s t : State} (hs : s.SessionOk) (hengine : t.engine = s.engine)
    (hopen : t.line.isOpen = s.line.isOpen) : t.SessionOk := by
  rw [State.SessionOk, hengine, hopen]
  exact hs

/-- In the retry loop the attempts left and spent make up the budget, and each spent one is a wait (R151, R160). -/
theorem sessionOk_receiving_iff {s : State} {w : Waiting} (hw : s.engine.phase = .receiving w) :
    s.SessionOk ↔ s.line.isOpen = true ∧ 1 ≤ w.attempts ∧ w.attempts ≤ s.engine.maxRetries ∧
      w.notify + w.attempts ≤ s.engine.maxRetries ∧
      w.waited = (s.engine.maxRetries - w.attempts) * (s.engine.readTimeout + s.engine.retryDelay) := by
  simp only [State.SessionOk, hw]

/-- One wait more than those counted is within the worst case: an attempt remains (R160). -/
theorem State.SessionOk.waited_le {s : State} {w : Waiting} (hs : s.SessionOk) (hw : s.engine.phase = .receiving w) :
    w.waited + (s.engine.readTimeout + s.engine.retryDelay) ≤
      s.engine.maxRetries * (s.engine.readTimeout + s.engine.retryDelay) := by
  obtain ⟨-, hpos, hbudget, -, hwaited⟩ := (sessionOk_receiving_iff hw).mp hs
  calc w.waited + (s.engine.readTimeout + s.engine.retryDelay)
    _ = (s.engine.maxRetries - w.attempts + 1) * (s.engine.readTimeout + s.engine.retryDelay) := by
      rw [hwaited, Nat.succ_mul]
    _ ≤ s.engine.maxRetries * (s.engine.readTimeout + s.engine.retryDelay) := Nat.mul_le_mul_right _ (by omega)

/-- Spending an attempt, with at most one notification counted, keeps the promises of the loop (R142, R147). -/
theorem spendAttempt_sessionOk {s : State} {w : Waiting} {n : Nat} (hs : s.SessionOk)
    (hw : s.engine.phase = .receiving w) (hn : n ≤ 1) :
    (s.spendAttempt { w with notify := w.notify + n }).SessionOk := by
  obtain ⟨hopen, hpos, hbudget, hnotify, hwaited⟩ := (sessionOk_receiving_iff hw).mp hs
  obtain ⟨-, hspend⟩ | ⟨htwo, hspend⟩ := spendAttempt_cases s { w with notify := w.notify + n } <;> rw [hspend]
  · exact sessionOk_of_idle rfl
  · rw [sessionOk_receiving_iff (congrArg Engine.phase (setPhase_engine ..))]
    simp only [setPhase_line, setPhase_engine] at htwo ⊢
    refine ⟨hopen, by omega, by omega, by omega, ?_⟩
    rw [hwaited, ← Nat.succ_mul]
    congr 1
    omega

/-- A read keeps the promises of the loop, or ends it (R143 to R149). -/
theorem afterRead_sessionOk {s : State} {w : Waiting} (hs : s.SessionOk) (hw : s.engine.phase = .receiving w)
    (x : ReadItem) : (s.afterRead w x).SessionOk := by
  obtain ⟨r, h⟩ | h | ⟨n, hn, h⟩ := afterRead_cases s w x <;> rw [h]
  · exact sessionOk_of_idle rfl
  · exact sessionOk_of_idle rfl
  · exact spendAttempt_sessionOk hs hw hn

/-- A call is begun only with the transport held (R141 step 1). -/
theorem beginCall_sessionOk (s : State) (k : HostCall) : (s.beginCall k).SessionOk := by
  cases k with
  | connect => exact sessionOk_of_idle (by simp [State.beginCall])
  | disconnect => exact sessionOk_of_idle (by simp [State.beginCall])
  | isConnected => exact sessionOk_of_idle (by simp [State.beginCall])
  | sendCommand payload wait =>
    rw [State.beginCall]
    split_ifs with hopen
    · exact hopen
    · exact sessionOk_of_idle (by simp)

/-- Beginning a call writes nothing. -/
theorem beginCall_tx (s : State) (k : HostCall) : (s.beginCall k).line.tx = s.line.tx := by
  cases k with
  | connect => simp [State.beginCall]
  | disconnect => simp [State.beginCall]
  | isConnected => simp [State.beginCall]
  | sendCommand payload wait =>
    rw [State.beginCall]
    split_ifs <;> simp

/-- The loop begins with the whole budget, nothing counted and nothing waited (R142). -/
theorem transmit_sessionOk {s : State} (hopen : s.line.isOpen = true) (seq : Byte) (F : Bytes) (wait : Bool) :
    (s.transmit seq F wait).SessionOk := by
  cases hwrite : s.line.writeAnswer with
  | error =>
    rw [transmit_of_error hwrite]
    exact sessionOk_of_idle rfl
  | ok =>
    cases wait with
    | false =>
      rw [transmit_of_no_wait hwrite]
      exact sessionOk_of_idle rfl
    | true =>
      obtain hbudget | hbudget := Nat.eq_zero_or_pos s.engine.maxRetries
      · rw [transmit_of_no_budget hwrite hbudget]
        exact sessionOk_of_idle rfl
      · rw [transmit_of_budget hwrite hbudget]
        exact ⟨hopen, hbudget, le_rfl, by simp, by simp⟩

/-- The write puts the frame on the transport or nothing (R42, R141 step 3). -/
theorem transmit_tx (s : State) (seq : Byte) (F : Bytes) (wait : Bool) :
    (s.transmit seq F wait).line.tx = s.line.tx ∨ (s.transmit seq F wait).line.tx = s.line.tx ++ [F] := by
  cases hwrite : s.line.writeAnswer with
  | error => exact .inl (by simp [transmit_of_error hwrite])
  | ok => exact .inr (by rw [transmit_line hwrite])

/-- A step that answers a next state in the engine's turn is one of its moves: no concurrent call was refused. -/
theorem engineMoves_of_step {s t : State} (ha : s.arbitrate = some .engine) (h : step s = .next t) :
    s.engineMoves := by
  refine ⟨ha, ?_⟩
  by_contra ho
  cases h.symm.trans (step_of_overlapping ha ho)

/-- The reset line and the requesters touch neither the engine nor its transport (R191). -/
theorem step_of_other_agents {s t : State} (ha : s.arbitrate ≠ some .engine) (h : step s = .next t) :
    t.engine = s.engine ∧ t.line = s.line := by
  obtain ⟨-, rfl⟩ | hf | ⟨a, i, u, v, hf, hx, rfl⟩ := step_next_cases h
  · exact ⟨rfl, rfl⟩
  · obtain ⟨-, rfl⟩ | ⟨hengine, -⟩ := fetch_internal_cases hf
    · exact ⟨rfl, rfl⟩
    · exact absurd hengine ha
  · obtain ⟨r, q, before, after, rfl, -, hq, -, -, rfl⟩ | ⟨-, hengine, -⟩ := fetch_instruction_cases hf
    · obtain ⟨-, -, -, -, -, hline, -⟩ := exec_frame hx
      have hengine := exec_engine_of_not_frame hx (ne_frameInstr_of_decodeRequest hq)
      exact ⟨hengine, hline⟩
    · exact absurd hengine ha

/-- From `s` to `t` nothing is written to the transport but, at most, the frame of one `Request` packet (R95, R145). -/
def State.WritesRequest (s t : State) : Prop :=
  t.line.tx = s.line.tx ∨
    ∃ seq payload, payload.length ≤ 65535 ∧ t.line.tx = s.line.tx ++ [encodeFrame ⟨.request, seq, payload⟩]

theorem State.WritesRequest.sentRequests {s t : State} (h : s.WritesRequest t) (hs : s.SentRequests) :
    t.SentRequests := by
  intro F hF
  obtain htx | ⟨seq, payload, hfits, htx⟩ := h <;> rw [htx] at hF
  · exact hs F hF
  · obtain hF | hF := List.mem_append.mp hF
    · exact hs F hF
    · cases List.mem_singleton.mp hF
      exact ⟨seq, payload, decodeFrame_encodeFrame hfits⟩

/-- A move of the engine keeps the call's promises and the budget, and writes at most the request the call encoded. -/
theorem step_of_engineMoves_keeps {s t : State} (hs : s.SessionOk) (hm : s.engineMoves) (h : step s = .next t) :
    t.SessionOk ∧ s.WritesRequest t ∧ t.engine.maxRetries = s.engine.maxRetries := by
  cases hphase : s.engine.phase with
  | idle =>
    cases hcalls : s.engine.calls with
    | nil =>
      cases h.symm.trans (step_of_no_call hm hphase hcalls)
      exact ⟨hs, .inl rfl, rfl⟩
    | cons k ks =>
      cases h.symm.trans (step_of_idle hm hphase hcalls)
      exact ⟨beginCall_sessionOk (s.popGrant.setCalls ks) k, .inl (beginCall_tx ..), by simp⟩
  | called payload wait =>
    cases h.symm.trans (step_of_called hm hphase)
    have hopen : s.line.isOpen = true := by simpa only [State.SessionOk, hphase] using hs
    exact ⟨hopen, .inl rfl, rfl⟩
  | allocated seq payload wait =>
    obtain hfits | hlong := le_or_gt payload.length 65535
    · cases h.symm.trans (step_of_allocated hm hphase hfits)
      have hopen : s.line.isOpen = true := by simpa only [State.SessionOk, hphase] using hs
      exact ⟨⟨hopen, payload, hfits, rfl⟩, .inl rfl, rfl⟩
    · cases h.symm.trans (step_of_allocated_long hm hphase hlong)
  | encoded seq F wait =>
    cases h.symm.trans (step_of_encoded hm hphase)
    simp only [State.SessionOk, hphase] at hs
    obtain ⟨hopen, payload, hfits, rfl⟩ := hs
    refine ⟨transmit_sessionOk (s := s.popGrant) hopen .., ?_, by simp⟩
    exact (transmit_tx s.popGrant ..).imp_right fun htx => ⟨seq, payload, hfits, htx⟩
  | receiving w =>
    obtain ⟨u, hu, hengine, hline, -, -, -⟩ := exists_step_read hm hphase
    cases h.symm.trans hu
    obtain ⟨-, hbudget, htx⟩ := afterRead_frame s w s.line.nextRead
    exact ⟨(afterRead_sessionOk hs hphase _).congr hengine (by rw [hline]), .inl (by rw [hline, htx]),
      by rw [hengine, hbudget]⟩

end Sys2Proof.Machine

open Sys2Proof Sys2Proof.Machine

/-- Settles O59: the engine's own moves keep its promises and write encoded requests alone; every other agent's step
leaves the engine and its transport alone. -/
theorem stepKeepsSession : Obligations.StepKeepsSession := by
  intro s t hs hsent h
  have hkeeps : t.SessionOk ∧ s.WritesRequest t ∧ t.engine.maxRetries = s.engine.maxRetries := by
    by_cases ha : s.arbitrate = some .engine
    · exact step_of_engineMoves_keeps hs (engineMoves_of_step ha h) h
    · obtain ⟨hengine, hline⟩ := step_of_other_agents ha h
      exact ⟨hs.congr hengine (by rw [hline]), .inl (by rw [hline]), by rw [hengine]⟩
  obtain ⟨hok, hwrites, hbudget⟩ := hkeeps
  exact ⟨hok, hwrites.sentRequests hsent, hbudget, fun _ => hok.waited_le⟩

end
